-- ==== Sys2Proof/Word.lean ====
section
/-! DEFINITION. Word.lean: the plain words of the manual: bytes, times, and the indices of its capacities
(00_scope.md, Capacities). -/

namespace Sys2Proof

/-- One byte on the control link, in a report, or a USB usage code. -/
abbrev Byte := BitVec 8

/-- A point in time by the part's own clock, in milliseconds (00_scope.md, Conventions). -/
abbrev Time := Nat

/-- Desk ports 0 to 3. -/
abbrev DeskPortId := Fin 4

/-- Computers 0 to 7, and the computer port each is attached to. -/
abbrev Comp := Fin 8

/-- Screens 0 to 7. -/
abbrev ScreenId := Fin 8

/-- Heads 0 to 15. -/
abbrev HeadId := Fin 16

/-- Tile records 0 to 255. -/
abbrev TileId := Fin 256

/-- Presets 0 to 15. -/
abbrev PresetId := Fin 16

/-- A button set: bit 0 for button 1 up to bit 4 for button 5 (R9). -/
abbrev Buttons := BitVec 5

/-- A set of computers: bit 0 for computer 0 up to bit 7 for computer 7 (R42, R155). -/
abbrev CompSet := BitVec 8

/-- Every computer, in ascending order. -/
def allComps : List Comp := [0, 1, 2, 3, 4, 5, 6, 7]

/-- Every screen, in ascending order. -/
def allScreens : List ScreenId := [0, 1, 2, 3, 4, 5, 6, 7]

/-- Every desk port, in ascending order. -/
def allDeskPorts : List DeskPortId := [0, 1, 2, 3]

end Sys2Proof
end

