-- ==== Sys2Proof/Syntax.lean ====
section
/-! DEFINITION. Syntax.lean: the commands of the block, one constructor for each row of spec/opcode_table.json.
Every command carries `t`, the time at which it is taken (assumption log 1). The host requests carry nothing else:
their operands are the frame at the head of the inbound queue (R177, assumption log 4). -/

namespace Sys2Proof

/-- What R3's table asks of a device whose descriptors have been read. -/
structure Offers where
  /-- the device offers a boot keyboard interface -/
  bootKeyboard : Bool
  /-- the device offers a boot pointer interface -/
  bootPointer : Bool
  /-- the device offers a hub interface -/
  hub : Bool
deriving DecidableEq, Repr

/-- The descriptors a computer may ask a port for (R104). -/
inductive DescriptorKind where
  | device
  | configuration
  | report
deriving DecidableEq, Repr

/-- The commands. The docstring of each gives the rule its row of the table names. -/
inductive Instr where
  /-- R183: power-up or the reset pin -/
  | fullReset (t : Time)
  /-- R2 -/
  | deviceAttach (t : Time) (p : DeskPortId)
  /-- R3: the DIU has read the device's descriptors -/
  | enumerationEnd (t : Time) (p : DeskPortId) (offers : Offers)
  /-- R3 -/
  | enumerationDeadlineExpiry (t : Time) (p : DeskPortId)
  /-- R4 -/
  | deviceDetach (t : Time) (p : DeskPortId)
  /-- R6, R7: the bytes of the report -/
  | keyboardReport (t : Time) (p : DeskPortId) (bytes : List Byte)
  /-- R9, R10: the bytes of the report -/
  | pointerReport (t : Time) (p : DeskPortId) (bytes : List Byte)
  /-- R31 -/
  | tapDeadlineExpiry (t : Time)
  /-- R35 -/
  | commandDeadlineExpiry (t : Time)
  /-- R70 -/
  | guardDeadlineExpiry (t : Time)
  /-- R71 -/
  | dwellDeadlineExpiry (t : Time)
  /-- R103 -/
  | busPowerPresent (t : Time) (c : Comp)
  /-- R103 -/
  | busPowerLost (t : Time) (c : Comp)
  /-- R104 -/
  | busReset (t : Time) (c : Comp)
  /-- R104 -/
  | descriptorRequest (t : Time) (c : Comp) (which : DescriptorKind)
  /-- R104: the bus address the computer assigns -/
  | addressAssigned (t : Time) (c : Comp) (address : BitVec 7)
  /-- R105 -/
  | configuration1Selected (t : Time) (c : Comp)
  /-- R105: configuration 0, or any other number but 1, which is stalled -/
  | configuration0Selected (t : Time) (c : Comp) (number : Byte)
  /-- R106 -/
  | busIdle (t : Time) (c : Comp)
  /-- R106 -/
  | resumeByComputer (t : Time) (c : Comp)
  /-- R107 -/
  | resumeCompletes (t : Time) (c : Comp)
  /-- R108 -/
  | setRemoteWake (t : Time) (c : Comp)
  /-- R108 -/
  | clearRemoteWake (t : Time) (c : Comp)
  /-- R112: whether the computer acknowledges the entry it is sent -/
  | poll (t : Time) (c : Comp) (acknowledged : Bool)
  /-- R154 -/
  | wakeAttemptDeadlineExpiry (t : Time) (c : Comp)
  /-- R157 -/
  | deskDeadlineExpiry (t : Time)
  /-- R162 -/
  | holdDeadlineExpiry (t : Time) (scr : ScreenId)
  /-- R121: the mode the head carries -/
  | signalAcquired (t : Time) (h : HeadId) (width height : Nat)
  /-- R121 -/
  | modeChanged (t : Time) (h : HeadId) (width height : Nat)
  /-- R121 -/
  | signalLost (t : Time) (h : HeadId)
  /-- R133 -/
  | frameStart (t : Time) (scr : ScreenId)
  /-- R169 -/
  | pollTick (t : Time)
  /-- R170 -/
  | blinkEdge (t : Time)
  /-- R168 -/
  | probeCompletes (t : Time) (acknowledged : Bool)
  /-- R169, R171: the low port byte is the eight button lines -/
  | panelReadCompletes (t : Time) (acknowledged : Bool) (low high : Byte)
  /-- R170, R171 -/
  | panelWriteCompletes (t : Time) (acknowledged : Bool)
  /-- R174 -/
  | spiSelect (t : Time)
  /-- R176: the opening byte 0x3C -/
  | put (t : Time)
  /-- R176: the whole bytes the host clocked after the opening byte of the PUT -/
  | putDeselect (t : Time) (bytes : List Byte)
  /-- R180: the opening byte 0x3D -/
  | take (t : Time)
  /-- R180: how many whole bytes the host clocked after the opening byte of the TAKE -/
  | takeDeselect (t : Time) (clocked : Nat)
  /-- R174: any other opening byte: the whole bytes the host clocked, that one first -/
  | otherOpeningByte (t : Time) (bytes : List Byte)
  /-- R178 -/
  | unknownRequest (t : Time)
  /-- R101, kind 0x01 -/
  | setComputer (t : Time)
  /-- R122, kind 0x02 -/
  | setHead (t : Time)
  /-- R125, kind 0x03 -/
  | placeScreen (t : Time)
  /-- R81, kind 0x04 -/
  | setPointer (t : Time)
  /-- R19, kind 0x05 -/
  | setHotkeyTiming (t : Time)
  /-- R18, kind 0x06 -/
  | writeHotkey (t : Time)
  /-- R42, kind 0x07 -/
  | writeRule (t : Time)
  /-- R139, kind 0x08 -/
  | setBorderColours (t : Time)
  /-- R164, kind 0x09 -/
  | setPowerTiming (t : Time)
  /-- R128, R186, kind 0x0A -/
  | writeTile (t : Time)
  /-- R129, kind 0x0B -/
  | freeTile (t : Time)
  /-- R131, kind 0x0C -/
  | setChain (t : Time)
  /-- R142, kind 0x0D -/
  | writePreset (t : Time)
  /-- R144, kind 0x0E -/
  | applyPreset (t : Time)
  /-- R135, kind 0x0F -/
  | flipTile (t : Time)
  /-- R61, kind 0x10 -/
  | setFocus (t : Time)
  /-- R76, kind 0x11 -/
  | setLock (t : Time)
  /-- R153, kind 0x12 -/
  | wakeComputer (t : Time)
  /-- R156, kind 0x13 -/
  | deskSleep (t : Time)
  /-- R159, kind 0x14 -/
  | deskWake (t : Time)
  /-- R168, kind 0x15 -/
  | scanPanels (t : Time)
  /-- R182, kind 0x16 -/
  | restart (t : Time)
  /-- R118, kind 0x17 -/
  | readComputer (t : Time)
  /-- R126, kind 0x18 -/
  | readScreen (t : Time)
  /-- R129, kind 0x19 -/
  | readTile (t : Time)
  /-- R77, kind 0x1A -/
  | readFocus (t : Time)
  /-- R123, kind 0x1B -/
  | readHead (t : Time)
  /-- R14, R155, R181, kind 0x1C -/
  | readDesk (t : Time)
  /-- R172, kind 0x1D -/
  | readPanels (t : Time)
  /-- R181, kind 0x1E -/
  | readEntry (t : Time)
deriving DecidableEq, Repr

end Sys2Proof
end

