-- ==== Sys2Proof/Config.lean ====
section
/-! DEFINITION. Config.lean: the free values, where the spec gives an effect and not the value. Each is opaque: nothing
can be proved of its value (assumption log 13). -/

namespace Sys2Proof

/-- FREE VALUE. The bytes of each USB descriptor. R104 states some facts of two of them and the bytes of none. -/
opaque Config.descriptorBytes : DescriptorKind → List Byte

/-- FREE VALUE. Whether a CONFIGURED port answers a request for a descriptor. R104 speaks of DEFAULT alone. -/
opaque Config.configuredAnswersDescriptors : Bool

/-- FREE VALUE. Whether a CONFIGURED port takes a bus address assigned to it. R104 speaks of DEFAULT alone. -/
opaque Config.configuredTakesAddress : Bool

end Sys2Proof
end

