-- ==== Sys2Proof/Machine/State.lean ====
section
/-! DEFINITION. State.lean: every record, table, queue and timer the spec gives the part, block by block as 00_scope.md's
Block overview names them, and the machine right after full reset. A field that the spec says is present exactly in
some state is an argument of that state's constructor, so that no other combination can be written. -/

namespace Sys2Proof.Machine

/-! ## Desk Input Unit -/

/-- The UNSUPPORTED reason (R1). -/
inductive UnsupportedReason where
  | notBoot
  | hub
  | noResponse
deriving DecidableEq, Repr

/-- A desk port record (R1): the port state with the fields present in it. -/
inductive DeskPort where
  /-- no device is attached -/
  | empty
  /-- with the enumeration deadline -/
  | enumerating (deadline : Time)
  /-- with the previous report: the modifier set (bit 0 for 0xE0 up to bit 7 for 0xE7) and the key list in slot order -/
  | keyboard (mods : Byte) (keys : List Byte)
  /-- with the previous report: the button set -/
  | pointer (buttons : Buttons)
  /-- with the reason -/
  | unsupported (reason : UnsupportedReason)
deriving DecidableEq, Repr

/-! ## Hotkey Sequencer -/

/-- One merged modifier's part of a modifier condition (R16, R41). -/
inductive Cond where
  | any
  | required
  | absent
deriving DecidableEq, Repr

/-- A modifier condition (R16, R17). -/
structure ModCond where
  ctrl : Cond
  shift : Cond
  alt : Cond
  gui : Cond
deriving DecidableEq, Repr

/-- A hotkey entry's trigger kind (R16). -/
inductive TriggerKind where
  | chordMake
  | chordBreak
  | sequence
deriving DecidableEq, Repr

/-- The commands of the catalogue (R38). The argument stands beside the command. -/
inductive Command where
  | select
  | selectNext
  | selectPrev
  | preset
  | presetNext
  | flip
  | lock
  | unlock
  | lockToggle
  | wake
  | wakeFocus
  | deskSleep
  | hostCode
deriving DecidableEq, Repr

/-- A hotkey table entry (R16). -/
structure HotkeyEntry where
  enabled : Bool
  kind : TriggerKind
  usage : Byte
  cond : ModCond
  command : Command
  argument : Byte
deriving DecidableEq, Repr

/-- The tap phase in FIRST TAP (R20). -/
inductive TapPhase where
  | firstDown
  | firstUp
  | secondDown
deriving DecidableEq, Repr

/-- The sequencer record (R20). -/
inductive Sequencer where
  | idle
  | firstTap (phase : TapPhase) (deadline : Time)
  | armed (deadline : Time)
  | chordHeld (entry : Fin 24) (command : Command) (argument : Byte)
deriving DecidableEq, Repr

/-- A key event as the hold buffer keeps it (R20): desk port, KEY MAKE or KEY BREAK, usage. -/
structure KeyEvent where
  port : DeskPortId
  make : Bool
  usage : Byte
deriving DecidableEq, Repr

/-- What the HKS keeps (R16, R19, R20, R23). -/
structure Hks where
  table : Vector HotkeyEntry 24
  /-- the leader usage, or none -/
  leader : Option Byte
  tapWindow : Nat
  commandWindow : Nat
  seq : Sequencer
  /-- the hold buffer, oldest first -/
  hold : List KeyEvent
  /-- the swallowed-key list, oldest first -/
  swallowed : List (DeskPortId × Byte)
deriving DecidableEq, Repr

/-! ## Route Filter -/

/-- A route rule (R41). -/
structure RouteRule where
  enabled : Bool
  ports : BitVec 4
  low : Byte
  high : Byte
  cond : ModCond
  includeFocus : Bool
  fixed : CompSet
deriving DecidableEq, Repr

/-- A held key table entry (R44). -/
structure HeldKey where
  port : DeskPortId
  usage : Byte
  focusMember : Option Comp
  fixed : CompSet
deriving DecidableEq, Repr

/-- What the RTF keeps. The held key table has no order (R44); the list is in order of creation (log 18). -/
structure Rtf where
  rules : Vector RouteRule 32
  held : List HeldKey
deriving DecidableEq, Repr

/-! ## Focus Unit -/

/-- The lock (R56). -/
inductive Lock where
  | none
  | soft
  | hard
deriving DecidableEq, Repr

/-- The cause of a focus request (R58). -/
inductive FocusCause where
  | glide
  | hotkey
  | panel
  | preset
  | host
deriving DecidableEq, Repr

/-- A tile identity (R56, R84): the screen, the record or NONE, the cell or none. -/
structure TileRef where
  screen : ScreenId
  record : Option TileId
  cell : Option (Fin 16)
deriving DecidableEq, Repr

/-- The pending target with its dwell deadline, which are present together (R56). -/
structure Pending where
  target : Comp
  deadline : Time
deriving DecidableEq, Repr

/-- The focus record (R56). Park is set exactly while its tile identity is present. -/
structure Fcu where
  focus : Comp
  lock : Lock
  pending : Option Pending
  guard : Option Time
  park : Option TileRef
  lastCause : FocusCause
deriving DecidableEq, Repr

/-! ## Pointer Unit -/

/-- The hit target with the hit position, which are present together (R80). -/
structure Hit where
  target : Comp
  ax : Nat
  ay : Nat
deriving DecidableEq, Repr

/-- The pointer record and the pointer settings (R80). -/
structure Ptu where
  px : Nat
  py : Nat
  fx : Int
  fy : Int
  hitTile : TileRef
  hit : Option Hit
  /-- the stale marks of each desk port's buttons -/
  stale : Vector Buttons 4
  speed : Nat
  dwell : Nat
  guard : Nat
deriving DecidableEq, Repr

/-! ## Computer Ports -/

/-- The port states (R100, R102). -/
inductive PortState where
  | detached
  | powered
  | default
  | configured
  | suspended
  | resuming
deriving DecidableEq, Repr

/-- A keyboard snapshot (R49). -/
structure Snapshot where
  mods : Byte
  slots : Vector Byte 6
deriving DecidableEq, Repr

/-- A last sent pointer state (R100): buttons and position. -/
structure PointerState where
  buttons : Buttons
  ax : Nat
  ay : Nat
deriving DecidableEq, Repr

/-- The code of a SYSTEM entry (R111). -/
inductive SystemCode where
  | none
  | sleep
  | wake
deriving DecidableEq, Repr

/-- A report queue entry (R111). -/
inductive Entry where
  | keyboard (snapshot : Snapshot)
  | pointer (state : PointerState) (wheel : Int)
  | system (code : SystemCode)
deriving DecidableEq, Repr

/-- What R104 states of the descriptors. -/
inductive DescriptorFacts where
  | device
  /-- one configuration, its number, and the remote-wake capability -/
  | configuration (count number : Nat) (remoteWake : Bool)
  /-- the report identifiers, and the range of the pointer's absolute axes -/
  | report (keyboard pointer system : Nat) (axisMin axisMax : Nat)
deriving DecidableEq, Repr

/-- What a port last answered its computer: the model's observation of an output (log 14). -/
inductive BusAnswer where
  | none
  | noData
  | entry (bytes : List Byte)
  | acknowledged
  | stall
  | descriptor (facts : DescriptorFacts) (bytes : List Byte)
deriving DecidableEq, Repr

/-- A computer record (R100), with the bus address of R104 and the observed answer. -/
structure Computer where
  dw : Nat
  dh : Nat
  wakeOnInput : Bool
  wakeOnFocus : Bool
  sleepsWithDesk : Bool
  port : PortState
  remoteWake : Bool
  keySet : List Byte
  lastSnapshot : Option Snapshot
  lastPointer : Option PointerState
  queue : List Entry
  owedKeyboard : Bool
  owedPointer : Bool
  merge : Nat
  address : BitVec 7
  answer : BusAnswer
deriving DecidableEq, Repr

/-! ## Layout Compositor -/

/-- A rectangle (x, y, w, h) (00_scope.md, Conventions). -/
structure Rect where
  x : Nat
  y : Nat
  w : Nat
  h : Nat
deriving DecidableEq, Repr

/-- A 24-bit colour. -/
structure Colour where
  red : Byte
  green : Byte
  blue : Byte
deriving DecidableEq, Repr

/-- A head record (R120). The size is present exactly while the signal is LIVE; NO SIGNAL measures 0 × 0. -/
structure Head where
  owner : Option Comp
  dx : Nat
  dy : Nat
  size : Option (Nat × Nat)
deriving DecidableEq, Repr

/-- The showing field of a SINGLE tile (R127). -/
inductive Showing where
  | primary
  | alternate
deriving DecidableEq, Repr

/-- The view of a SINGLE tile (R127). -/
inductive View where
  | whole
  | crop (region : Rect)
deriving DecidableEq, Repr

/-- The fields of a WRITTEN record that depend on its kind (R127). -/
inductive TileKind where
  | single (primary : HeadId) (alternate : Option HeadId) (showing : Showing) (flipPending : Bool) (view : View) (border : Nat)
  | grid (columns rows : Nat) (cells : List (Option HeadId)) (border : Nat)
  | fill (colour : Colour)
deriving DecidableEq, Repr

/-- A WRITTEN tile record (R127). A next of none is END. -/
structure Tile where
  next : Option TileId
  rect : Rect
  kind : TileKind
deriving DecidableEq, Repr

/-- What fills one rectangle of a frame (R137, R138). -/
inductive Content where
  /-- a head's source region, with the head's measured size at the frame start -/
  | head (h : HeadId) (region : Rect) (width height : Nat)
  | colour (c : Colour)
  | background
deriving DecidableEq, Repr

/-- One SINGLE tile, GRID cell or FILL tile as a frame draws it, with the border that applies (R139). -/
structure Layer where
  rect : Rect
  content : Content
  border : Option (Nat × Colour)
deriving DecidableEq, Repr

/-- A drawn frame: the model's observation of a screen output (log 14). Later layers are drawn over earlier ones. -/
structure Image where
  width : Nat
  height : Nat
  background : Colour
  layers : List Layer
deriving DecidableEq, Repr

/-- A screen record (R124). `rect` is the origin and the size; an active chain start of none is NONE; `drawn` is the
frame last drawn. -/
structure Screen where
  placed : Bool
  rect : Rect
  alwaysOn : Bool
  background : Colour
  active : Option TileId
  pending : Option (Option TileId)
  drawn : Option Image
deriving DecidableEq, Repr

/-- A preset's screen entry (R141): KEEP, or a chain start. -/
inductive PresetEntry where
  | keep
  | chain (start : Option TileId)
deriving DecidableEq, Repr

/-- A WRITTEN preset record (R141). -/
structure Preset where
  screens : Vector PresetEntry 8
  focus : Option Comp
  next : Option PresetId
deriving DecidableEq, Repr

/-- The three border colours (R139). -/
structure Borders where
  focus : Colour
  lock : Colour
  pending : Colour
deriving DecidableEq, Repr

/-- What the LCO keeps. A tile record of none is FREE; a preset of none is EMPTY. -/
structure Lco where
  heads : Vector Head 16
  screens : Vector Screen 8
  tiles : Vector (Option Tile) 256
  borders : Borders
  presets : Vector (Option Preset) 16
  lastPreset : Option PresetId
deriving DecidableEq, Repr

/-! ## Wake and Power Controller -/

/-- The cause of a wake attempt (R150). -/
inductive WakeCause where
  | input
  | focus
  | hotkey
  | host
  | desk
deriving DecidableEq, Repr

/-- An outstanding wake attempt (R150). -/
structure WakeAttempt where
  cause : WakeCause
  start : Time
  deadline : Time
deriving DecidableEq, Repr

/-- The desk state (R155). -/
inductive DeskState where
  | awake
  | sleepRequested
  | asleep
deriving DecidableEq, Repr

/-- A screen's power state (R162): the hold deadline is present exactly in DARK HOLD; the forced mark belongs to STANDBY. -/
inductive Power where
  | active
  | darkHold (deadline : Time)
  | standby (forced : Bool)
deriving DecidableEq, Repr

/-- What the WPC keeps (R150, R155, R162, R164). The standby hold is in seconds. -/
structure Wpc where
  wakes : Vector (Option WakeAttempt) 8
  desk : DeskState
  awaited : CompSet
  deskDeadline : Option Time
  power : Vector Power 8
  wakeTimeout : Nat
  sleepTimeout : Nat
  standbyHold : Nat
deriving DecidableEq, Repr

/-! ## Panel Scanner -/

/-- A button state (R167). -/
inductive ButtonState where
  | released
  | pressSeen
  | held
deriving DecidableEq, Repr

/-- A panel record (R167). Address 0x38 + `address`; `present` is status PRESENT, clear is LOST. -/
structure Panel where
  address : Fin 4
  present : Bool
  buttons : Vector ButtonState 8
  lastPattern : Option Byte
  readDue : Bool
  writeDue : Bool
deriving DecidableEq, Repr

/-- The scanner state (R167), with the probe reached while SCANNING (R168). -/
inductive Scanner where
  | idle
  | scanning (probe : Fin 4)
deriving DecidableEq, Repr

/-- A transaction on the panel bus (R167). -/
inductive BusTransaction where
  /-- a probe of the running scan (R168) -/
  | probe (address : Fin 4)
  /-- a probe of an earlier scan, on the bus when full reset started the running one (R167, R168) -/
  | earlierProbe (address : Fin 4)
  /-- a read of a panel's two port bytes (R169) -/
  | read (panel : Nat)
  /-- a write of a panel's two port bytes, to the low port and to the high port, and whether the pattern has changed since it
  started (R170) -/
  | write (panel : Nat) (low high : Byte) (changed : Bool)
deriving DecidableEq, Repr

/-- What the PSC keeps (R167). The list is in panel number order. -/
structure Psc where
  panels : List Panel
  scanner : Scanner
  bus : Option BusTransaction
deriving DecidableEq, Repr

/-! ## Control Link Port -/

/-- An accepted request (R176): the header's three bytes, the stored bytes that followed the length byte, and the count
of all that followed it. -/
structure Request where
  kind : Byte
  tag : Byte
  lengthByte : Byte
  body : List Byte
  count : Nat
deriving DecidableEq, Repr

/-- A frame (R184). The length byte is the payload's length. -/
structure Frame where
  kind : Byte
  tag : Byte
  payload : List Byte
deriving DecidableEq, Repr

/-- The SPI transaction in progress (R174, R176, R180). -/
inductive Spi where
  /-- not selected -/
  | idle
  /-- selected, the opening byte not yet clocked; the link status byte formed at the select -/
  | selected (status : Byte)
  /-- a PUT, acceptable or not -/
  | putting (acceptable : Bool)
  /-- a TAKE, with the frame it fixed, and whether that frame is still the queue's head -/
  | taking (frame : Option Frame) (queued : Bool)
  /-- any other opening byte -/
  | ignoring
deriving DecidableEq, Repr

/-- What the CLP keeps (R174 to R180). `spiOut` is the bytes clocked out in the transaction (log 14). -/
structure Clp where
  inbound : List Request
  outbound : List Frame
  lost : Bool
  spi : Spi
  spiOut : List Byte
deriving DecidableEq, Repr

/-- The whole machine, block by block, with the part's clock, the time of the last full reset, and the queue of the
commands that are waiting. -/
structure State where
  clock : Time
  epoch : Time
  diu : Vector DeskPort 4
  hks : Hks
  rtf : Rtf
  fcu : Fcu
  ptu : Ptu
  cps : Vector Computer 8
  lco : Lco
  wpc : Wpc
  psc : Psc
  clp : Clp
  pending : List Instr
deriving DecidableEq, Repr

/-- No fault stops this block: every refusal of the spec is a reply, an outcome, a stall or an ignored event, each of them
a next state. The type has no constructor. -/
inductive Fault where
deriving DecidableEq, Repr

/-- Why a command is refused. -/
inductive Refusal where
  /-- Raised by exec's arm of a command that has no meaning yet; no arm raises it now. Safe. -/
  | notModelled (mnemonic : String)
deriving DecidableEq, Repr

/-! ## Full reset -/

/-- Every part of a condition ANY. -/
def ModCond.anyCond : ModCond := { ctrl := .any, shift := .any, alt := .any, gui := .any }

/-- A hotkey entry after full reset (R40). -/
def HotkeyEntry.reset : HotkeyEntry :=
  { enabled := false, kind := .chordMake, usage := 0x00, cond := .anyCond, command := .hostCode, argument := 0 }

/-- The HKS after full reset (R40). -/
def Hks.reset : Hks :=
  { table := .replicate 24 .reset, leader := none, tapWindow := 350, commandWindow := 2000, seq := .idle, hold := [],
    swallowed := [] }

/-- A route rule after full reset (R55). -/
def RouteRule.reset : RouteRule :=
  { enabled := false, ports := 0xF, low := 0x00, high := 0xFF, cond := .anyCond, includeFocus := true, fixed := 0 }

/-- The RTF after full reset (R55). -/
def Rtf.reset : Rtf := { rules := .replicate 32 .reset, held := [] }

/-- The focus record after full reset (R78), and after RESTART (R79). -/
def Fcu.reset : Fcu :=
  { focus := 0, lock := .none, pending := none, guard := none, park := none, lastCause := .host }

/-- The pointer record and settings after full reset (R98): the centre of screen 0, no chain under it. -/
def Ptu.reset : Ptu :=
  { px := 960, py := 540, fx := 0, fy := 0, hitTile := { screen := 0, record := none, cell := none }, hit := none,
    stale := .replicate 4 0, speed := 16, dwell := 60, guard := 200 }

/-- A computer record after full reset (R119). The address is the USB family's default (log 12), the answer is none (log 14). -/
def Computer.reset : Computer :=
  { dw := 1920, dh := 1080, wakeOnInput := true, wakeOnFocus := false, sleepsWithDesk := false, port := .detached,
    remoteWake := false, keySet := [], lastSnapshot := none, lastPointer := none, queue := [], owedKeyboard := false,
    owedPointer := false, merge := 0, address := 0, answer := .none }

/-- A head record after full reset (R140). -/
def Head.reset : Head := { owner := none, dx := 0, dy := 0, size := none }

/-- Screen s after full reset (R140). -/
def Screen.reset (s : ScreenId) : Screen :=
  { placed := true, rect := { x := 1920 * s.val, y := 0, w := 1920, h := 1080 }, alwaysOn := false,
    background := { red := 0, green := 0, blue := 0 }, active := none, pending := none, drawn := none }

/-- The border colours after full reset (R140): white, amber, blue. -/
def Borders.reset : Borders :=
  { focus := { red := 255, green := 255, blue := 255 }, lock := { red := 255, green := 191, blue := 0 },
    pending := { red := 0, green := 0, blue := 255 } }

/-- The LCO after full reset (R140, R149). -/
def Lco.reset : Lco :=
  { heads := .replicate 16 .reset,
    screens := #v[.reset 0, .reset 1, .reset 2, .reset 3, .reset 4, .reset 5, .reset 6, .reset 7],
    tiles := .replicate 256 none, borders := .reset, presets := .replicate 16 none, lastPreset := none }

/-- The WPC after a full reset at time t (R165): every screen is dark and has entered DARK HOLD with a deadline 30 s on. -/
def Wpc.resetAt (t : Time) : Wpc :=
  { wakes := .replicate 8 none, desk := .awake, awaited := 0, deskDeadline := none,
    power := .replicate 8 (.darkHold (t + 30000)), wakeTimeout := 3000, sleepTimeout := 15000, standbyHold := 30 }

/-- The PSC after a full reset that finds the panel bus idle (R168, R173): the table empty, the scan's first probe on the bus. -/
def Psc.reset : Psc := { panels := [], scanner := .scanning 0, bus := some (.probe 0) }

/-- The CLP after full reset (R183): RESET DONE, then the SCREEN POWER notices of R165, DARK HOLD from ACTIVE. -/
def Clp.reset : Clp :=
  { inbound := [],
    outbound := { kind := 0x40, tag := 0, payload := [0] } ::
      [0, 1, 2, 3, 4, 5, 6, 7].map (fun s => { kind := 0x45, tag := 0, payload := [0, s, 1, 0] }),
    lost := false, spi := .idle, spiOut := [] }

/-- The machine right after a full reset taken at time t, no command waiting. -/
def State.resetAt (t : Time) : State :=
  { clock := t, epoch := t, diu := .replicate 4 .empty, hks := .reset, rtf := .reset, fcu := .reset, ptu := .reset,
    cps := .replicate 8 .reset, lco := .reset, wpc := .resetAt t, psc := .reset, clp := .reset, pending := [] }

/-- The machine right after full reset, the clock at 0 (log 5). -/
def State.reset : State := State.resetAt 0

end Sys2Proof.Machine
end

