-- ==== Sys2Proof/Machine/Wire.lean ====
section
/-! DEFINITION. Wire.lean: what stands on the wires: byte order, the codes of states and causes, the notices and their
frames, the replies' statuses, and the entries a computer is sent (11_control_link.md). -/

namespace Sys2Proof.Machine

/-! ## Bytes and byte order -/

/-- A byte from a number. -/
def byte (n : Nat) : Byte := BitVec.ofNat 8 n

/-- A flag as a byte: 0 clear, 1 set. -/
def flagByte (b : Bool) : Byte := if b then 1 else 0

/-- A two-byte field, least significant byte first (11_control_link.md, Wire layouts). -/
def le16 (n : Nat) : List Byte := [byte n, byte (n / 256)]

/-- The number of a two-byte field, least significant byte first. -/
def u16 (lo hi : Byte) : Nat := lo.toNat + 256 * hi.toNat

/-- A signed byte: −128 to 127 (R9, R185). -/
def signedByte (i : Int) : Byte := BitVec.ofInt 8 i

/-- A value clamped to [a, b] (00_scope.md, Conventions). -/
def clampNat (a b n : Nat) : Nat := if n < a then a else if b < n then b else n

/-- A signed value clamped to [a, b] (00_scope.md, Conventions). -/
def clampInt (a b n : Int) : Int := if n < a then a else if b < n then b else n

/-- A button set as a byte, bits 5 to 7 zero (R118, R185). -/
def buttonByte (b : Buttons) : Byte := b.zeroExtend 8

/-! ## Codes -/

/-- R110. -/
def PortState.code : PortState → Byte
  | .detached => 0
  | .powered => 1
  | .default => 2
  | .configured => 3
  | .suspended => 4
  | .resuming => 5

/-- R181. -/
def DeskPort.code : DeskPort → Byte
  | .empty => 0
  | .enumerating _ => 1
  | .keyboard _ _ => 2
  | .pointer _ => 3
  | .unsupported _ => 4

/-- R181: 0 where the reason is absent. -/
def DeskPort.reasonCode : DeskPort → Byte
  | .unsupported .notBoot => 1
  | .unsupported .hub => 2
  | .unsupported .noResponse => 3
  | _ => 0

/-- R61. -/
def Lock.code : Lock → Byte
  | .none => 0
  | .soft => 1
  | .hard => 2

/-- R68, R77. -/
def FocusCause.code : FocusCause → Byte
  | .glide => 0
  | .hotkey => 1
  | .panel => 2
  | .preset => 3
  | .host => 4

/-- R155, R160. -/
def DeskState.code : DeskState → Byte
  | .awake => 0
  | .sleepRequested => 1
  | .asleep => 2

/-- R163. -/
def Power.code : Power → Byte
  | .active => 0
  | .darkHold _ => 1
  | .standby _ => 2

/-- R154. -/
def WakeCause.code : WakeCause → Byte
  | .input => 0
  | .focus => 1
  | .hotkey => 2
  | .host => 3
  | .desk => 4

/-- R136. -/
def Showing.code : Showing → Byte
  | .primary => 0
  | .alternate => 1

/-- R185. -/
def SystemCode.code : SystemCode → Byte
  | .none => 0
  | .sleep => 1
  | .wake => 2

/-- R38. -/
def Command.code : Command → Byte
  | .select => 0x01
  | .selectNext => 0x02
  | .selectPrev => 0x03
  | .preset => 0x04
  | .presetNext => 0x05
  | .flip => 0x06
  | .lock => 0x07
  | .unlock => 0x08
  | .lockToggle => 0x09
  | .wake => 0x0A
  | .wakeFocus => 0x0B
  | .deskSleep => 0x0C
  | .hostCode => 0x0D

/-- R18. -/
def TriggerKind.code : TriggerKind → Byte
  | .chordMake => 0
  | .chordBreak => 1
  | .sequence => 2

/-- R18, R42. -/
def Cond.code : Cond → Byte
  | .any => 0
  | .required => 1
  | .absent => 2

/-- A computer, or 0xFF when absent (R77, R81, R123). -/
def compByte : Option Comp → Byte
  | some c => byte c.val
  | none => 0xFF

/-- A chain start, or 0xFFFF for NONE (R126, R133). -/
def startField : Option TileId → List Byte
  | some r => le16 r.val
  | none => le16 0xFFFF

/-- Three bytes, red, green, blue. -/
def Colour.bytes (c : Colour) : List Byte := [c.red, c.green, c.blue]

/-- Four condition bytes, Ctrl, Shift, Alt, GUI (R18, R42). -/
def ModCond.bytes (m : ModCond) : List Byte := [m.ctrl.code, m.shift.code, m.alt.code, m.gui.code]

/-! ## Notices -/

/-- The result of a wake attempt in a WAKE RESULT notice (R154). -/
inductive WakeEnd where
  | resumed
  | timeout
  | busReset
  | detached
  | noPermission
  | systemLost
deriving DecidableEq, Repr

/-- R154. -/
def WakeEnd.code : WakeEnd → Byte
  | .resumed => 0
  | .timeout => 1
  | .busReset => 2
  | .detached => 3
  | .noPermission => 4
  | .systemLost => 5

/-- The cause of a DESK STATE notice (R160). -/
inductive DeskCause where
  | request
  | allAsleep
  | timeout
  | input
  | hostWake
deriving DecidableEq, Repr

/-- R160. -/
def DeskCause.code : DeskCause → Byte
  | .request => 0
  | .allAsleep => 1
  | .timeout => 2
  | .input => 3
  | .hostWake => 4

/-- The outcome of a focus request (R58). -/
inductive FocusOutcome where
  | done
  | refusedLocked
  | ignored
deriving DecidableEq, Repr

/-- R39, R147, R172. -/
def FocusOutcome.code : FocusOutcome → Byte
  | .done => 0
  | .refusedLocked => 1
  | .ignored => 2

/-- The notices of 11_control_link.md, each with what its payload gives after the LOST flag byte. -/
inductive Notice where
  /-- R183 -/
  | resetDone
  /-- R68: the cause byte is a request's cause, or 5 for LOCK -/
  | focus (focus previous : Comp) (cause : Byte) (lock : Lock) (park : Bool)
  /-- R110 -/
  | portState (c : Comp) (new previous : PortState) (permission : Bool)
  /-- R154 -/
  | wakeResult (c : Comp) (result : WakeEnd) (cause : WakeCause) (elapsed : Byte)
  /-- R160 -/
  | deskState (new previous : DeskState) (cause : DeskCause) (awaited notAsleep : CompSet)
  /-- R163 -/
  | screenPower (scr : ScreenId) (new previous : Power)
  /-- R133: applied at once in STANDBY, or at a frame start -/
  | chainApplied (scr : ScreenId) (start : Option TileId) (atOnce : Bool)
  /-- R147: the eight screens' three bytes each, and the focus outcome byte -/
  | presetResult (preset : PresetId) (screens : List Byte) (focus : Byte)
  /-- R121 -/
  | sourceChange (h : HeadId) (size : Option (Nat × Nat))
  /-- R39 -/
  | hotkey (entry outcome command argument : Byte)
  /-- R172, PRESS -/
  | panelPress (panel : Nat) (button : Fin 8) (outcome : FocusOutcome)
  /-- R172, LOST -/
  | panelLost (panel : Nat) (address : Fin 4) (write : Bool)
  /-- R172, SCAN DONE -/
  | scanDone (count : Nat) (addresses : Byte)
  /-- R5, R181 -/
  | deskPort (p : DeskPortId) (state : DeskPort)
  /-- R136 -/
  | flipApplied (scr : ScreenId) (r : TileId) (showing : Showing)
deriving DecidableEq, Repr

/-- The notice kinds (11_control_link.md, Notices). -/
def Notice.kind : Notice → Byte
  | .resetDone => 0x40
  | .focus .. => 0x41
  | .portState .. => 0x42
  | .wakeResult .. => 0x43
  | .deskState .. => 0x44
  | .screenPower .. => 0x45
  | .chainApplied .. => 0x46
  | .presetResult .. => 0x47
  | .sourceChange .. => 0x48
  | .hotkey .. => 0x49
  | .panelPress .. => 0x4A
  | .panelLost .. => 0x4A
  | .scanDone .. => 0x4A
  | .deskPort .. => 0x4B
  | .flipApplied .. => 0x4C

/-- The address byte of a panel: 0x38 to 0x3B (R167). -/
def panelAddress (a : Fin 4) : Byte := 0x38 + byte a.val

/-- A notice's payload after the LOST flag byte. -/
def Notice.body : Notice → List Byte
  | .resetDone => []
  | .focus f p cause lock park => [byte f.val, byte p.val, cause, lock.code, flagByte park]
  | .portState c n p perm => [byte c.val, n.code, p.code, flagByte perm]
  | .wakeResult c r cause elapsed => [byte c.val, r.code, cause.code, elapsed]
  | .deskState n p cause awaited notAsleep => [n.code, p.code, cause.code, awaited, notAsleep]
  | .screenPower s n p => [byte s.val, n.code, p.code]
  | .chainApplied s start atOnce => byte s.val :: startField start ++ [flagByte atOnce]
  | .presetResult p screens f => byte p.val :: screens ++ [f]
  | .sourceChange h (some (w, hh)) => byte h.val :: 1 :: le16 w ++ le16 hh
  | .sourceChange h none => byte h.val :: 0 :: le16 0 ++ le16 0
  | .hotkey e o c a => [e, o, c, a]
  | .panelPress n b o => [0, byte n, byte b.val, o.code]
  | .panelLost n a w => [1, byte n, panelAddress a, flagByte w]
  | .scanDone n a => [2, byte n, a, 0]
  | .deskPort p st => [byte p.val, st.code, st.reasonCode]
  | .flipApplied s r sh => [byte s.val, byte r.val, sh.code]

/-- A notice's frame: tag 0, and a payload that opens with the LOST flag byte (R179). -/
def Notice.frame (lost : Bool) (n : Notice) : Frame := { kind := n.kind, tag := 0, payload := flagByte lost :: n.body }

/-! ## Frames and replies -/

/-- A frame's bytes: kind, tag, payload length, payload (R184). -/
def Frame.bytes (f : Frame) : List Byte := f.kind :: f.tag :: byte f.payload.length :: f.payload

/-- The statuses (R178). -/
inductive Status where
  | ok
  | badKind
  | badLength
  | badIndex
  | badValue
  | inUse
  | chainInvalid
  | locked
  | overlap
  | wrongState
  | noPermission
deriving DecidableEq, Repr

/-- R178. -/
def Status.code : Status → Byte
  | .ok => 0
  | .badKind => 1
  | .badLength => 2
  | .badIndex => 3
  | .badValue => 4
  | .inUse => 5
  | .chainInvalid => 6
  | .locked => 7
  | .overlap => 8
  | .wrongState => 9
  | .noPermission => 10

/-- A reply: the status and the bytes after it. -/
structure Reply where
  status : Status
  data : List Byte
deriving DecidableEq, Repr

/-- A reply of a status alone (R178). -/
def Reply.bare (st : Status) : Reply := { status := st, data := [] }

/-- An OK reply with the bytes after the status. -/
def Reply.okWith (data : List Byte) : Reply := { status := .ok, data := data }

/-- The kind of a reply: the request's kind plus 0x80, or the same kind from 0x80 on (R178). -/
def replyKind (kind : Byte) : Byte := if kind < 0x80 then kind + 0x80 else kind

/-- The reply frame to a request: its tag unchanged, the status first (R178). -/
def Reply.frame (kind tag : Byte) (r : Reply) : Frame :=
  { kind := replyKind kind, tag := tag, payload := r.status.code :: r.data }

/-! ## What a computer is sent (R185) -/

/-- A report queue entry in its layout, behind its report identifier. -/
def Entry.bytes : Entry → List Byte
  | .keyboard s => 0x01 :: s.mods :: 0x00 :: s.slots.toList
  | .pointer p wheel => 0x02 :: buttonByte p.buttons :: le16 p.ax ++ le16 p.ay ++ [signedByte wheel]
  | .system code => [0x03, code.code]

end Sys2Proof.Machine
end

