-- ==== Sys2Proof/Machine/Ops.lean ====
section
/-! DEFINITION. Ops.lean: the named operations over the machine's records: the clock, the queueing of notices (R179),
the reading and writing of a computer record, and the taking of reports by a computer port (R111 to R117). -/

namespace Sys2Proof.Machine

/-! ## Time -/

/-- The state in which a command of time t is taken: the clock never goes back (assumption log 1). -/
def State.at (s : State) (t : Time) : State := { s with clock := max s.clock t }

/-- Whether a deadline has been reached. -/
def State.due (s : State) (deadline : Time) : Bool := decide (deadline ≤ s.clock)

/-- The time since full reset, from which polls and blinks are counted (R169, R170, R173). -/
def State.sinceReset (s : State) : Time := s.clock - s.epoch

/-! ## The outbound queue (R179) -/

/-- The inbound queue's places that are taken, a PUT in progress counted (R176, R177). Each holds one reservation. -/
def Clp.places (c : Clp) : Nat :=
  c.inbound.length + (match c.spi with
    | .putting true => 1
    | _ => 0)

/-- R179: a notice is queued where a slot is neither reserved nor holding a frame, and carries and clears the notice-lost
flag; otherwise it is dropped and the flag is set. -/
def Clp.queueNotice (n : Notice) (c : Clp) : Clp :=
  if c.outbound.length + c.places < 32 then { c with outbound := c.outbound ++ [n.frame c.lost], lost := false }
  else { c with lost := true }

/-- A block gives a notice to the CLP. -/
def State.notify (n : Notice) (s : State) : State := { s with clp := s.clp.queueNotice n }

/-! ## Computer records -/

/-- The record of computer c. -/
def State.comp (s : State) (c : Comp) : Computer := s.cps[c]

/-- The state with the record of computer c replaced. -/
def State.setComp (c : Comp) (r : Computer) (s : State) : State := { s with cps := s.cps.set c r }

/-- The accepting states (R102). -/
def PortState.accepting : PortState → Bool
  | .configured | .suspended | .resuming => true
  | .detached | .powered | .default => false

/-- R117: the merge count holds at 65535. -/
def Computer.addMerge (r : Computer) : Computer := { r with merge := min 65535 (r.merge + 1) }

/-- Whether the report queue has a free slot (R109). -/
def Computer.hasRoom (r : Computer) : Bool := decide (r.queue.length < 16)

/-! ## Taking keyboard snapshots -/

/-- Whether a usage is a modifier, 0xE0 to 0xE7 (R1). -/
def isModifier (u : Byte) : Bool := decide (0xE0 ≤ u) && decide (u ≤ 0xE7)

/-- The bit of a modifier usage in a modifier set (R6, R185). -/
def modifierBit (u : Byte) : Byte := 1 <<< (u - 0xE0).toNat

/-- The modifier set of a list of usages. -/
def modifierSet (usages : List Byte) : Byte :=
  (usages.filter isModifier).foldl (fun acc u => acc ||| modifierBit u) 0

/-- R49: the snapshot of a key set. -/
def snapshotOf (keySet : List Byte) : Snapshot :=
  let keys := keySet.filter (fun u => !isModifier u)
  let slot (i : Nat) : Byte := if keys.length ≤ 6 then keys.getD i 0x00 else 0x01
  { mods := modifierSet keySet, slots := #v[slot 0, slot 1, slot 2, slot 3, slot 4, slot 5] }

/-- R113 (R50): a port in an accepting state takes a snapshot; any other port drops it (R111). -/
def Computer.takeSnapshot (snap : Snapshot) (r : Computer) : Computer :=
  if !r.port.accepting then r
  else if r.lastSnapshot = some snap then r
  else if r.hasRoom then
    { r with queue := r.queue ++ [.keyboard snap], lastSnapshot := some snap, owedKeyboard := false }
  else { r.addMerge with owedKeyboard := true }

/-! ## Taking pointer reports -/

/-- Splits off the youngest entry of a queue. -/
def youngest : List Entry → Option (List Entry × Entry)
  | [] => none
  | e :: [] => some ([], e)
  | e :: e' :: rest => (youngest (e' :: rest)).map (fun (older, y) => (e :: older, y))

/-- R114, the fold: the queue with the report folded into its youngest entry, where that is a POINTER entry of the same
buttons. -/
def foldInto (queue : List Entry) (p : PointerState) (wheel : Int) : Option (List Entry) :=
  match youngest queue with
  | some (older, .pointer q w) =>
    if q.buttons = p.buttons then some (older ++ [.pointer p (clampInt (-127) 127 (w + wheel))]) else none
  | _ => none

/-- R114, the steps after the dedup: fold, queue or owe. In each the last sent pointer state becomes the report's. -/
def Computer.placePointer (p : PointerState) (wheel : Int) (r : Computer) : Computer :=
  match foldInto r.queue p wheel with
  | some queue => { r with queue := queue, lastPointer := some p, owedPointer := false }
  | none =>
    if r.hasRoom then
      { r with queue := r.queue ++ [.pointer p wheel], lastPointer := some p, owedPointer := false }
    else { r.addMerge with lastPointer := some p, owedPointer := true }

/-- R114: a port in an accepting state takes a pointer report; any other port drops it (R111). -/
def Computer.takePointer (p : PointerState) (wheel : Int) (r : Computer) : Computer :=
  if !r.port.accepting then r
  else if wheel = 0 ∧ r.lastPointer = some p then r
  else r.placePointer p wheel

/-- The Pointer Unit hands computer c a pointer report. -/
def State.handPointer (c : Comp) (p : PointerState) (wheel : Int) (s : State) : State :=
  s.setComp c ((s.comp c).takePointer p wheel)

/-! ## System entries -/

/-- The queue without its oldest POINTER entry, where it has one (R115). -/
def dropOldestPointer : List Entry → Option (List Entry)
  | [] => none
  | .pointer _ _ :: rest => some rest
  | e :: rest => (dropOldestPointer rest).map (fun q => e :: q)

/-- R115: the record after a SYSTEM entry, and whether the entry was discarded for want of room. A port outside the
accepting states drops it (R111). -/
def Computer.takeSystem (code : SystemCode) (r : Computer) : Computer × Bool :=
  if !r.port.accepting then (r, false)
  else if r.hasRoom then ({ r with queue := r.queue ++ [.system code] }, false)
  else
    match dropOldestPointer r.queue with
    | some queue => ({ r.addMerge with queue := queue ++ [.system code], owedPointer := true }, false)
    | none => (r, true)

/-- The WPC hands computer c a SYSTEM entry; a discarded one queues a WAKE RESULT of SYSTEM LOST (R115, R154, R156). -/
def State.handSystem (c : Comp) (code : SystemCode) (s : State) : State :=
  let (r, lost) := (s.comp c).takeSystem code
  let s := s.setComp c r
  if lost then s.notify (.wakeResult c .systemLost .desk code.code) else s

/-! ## Polls and what is owed -/

/-- R116: the pointer payment. It skips the dedup of R114 and takes its fold and queue steps. -/
def Computer.payPointer (r : Computer) : Computer :=
  if r.owedPointer then
    let r := { r with owedPointer := false }
    match r.lastPointer with
    | some p => r.placePointer p 0
    | none => r
  else r

/-- R116: one owed report is paid, the keyboard before the pointer. -/
def Computer.payOwed (r : Computer) : Computer :=
  if r.owedKeyboard then
    let snap := snapshotOf r.keySet
    let r := { r with owedKeyboard := false }
    if r.lastSnapshot = some snap then r.payPointer
    else { r with queue := r.queue ++ [.keyboard snap], lastSnapshot := some snap }
  else r.payPointer

/-- R112: a poll of a CONFIGURED port sends the oldest entry, removes it on an acknowledge, then pays one owed report where
the queue has a free slot. -/
def Computer.takePoll (acknowledged : Bool) (r : Computer) : Computer :=
  if r.port = .configured then
    let r := match r.queue with
      | [] => { r with answer := .noData }
      | e :: rest => { r with answer := .entry e.bytes, queue := if acknowledged then rest else e :: rest }
    if r.hasRoom && (r.owedKeyboard || r.owedPointer) then r.payOwed else r
  else r

/-! ## Leaving the accepting states -/

/-- R109: what a port does on entering DEFAULT or DETACHED from an accepting state. The configuration fields and the merge
count are kept. -/
def Computer.cleared (r : Computer) : Computer :=
  { r with queue := [], keySet := [], owedKeyboard := false, owedPointer := false, lastSnapshot := none,
           lastPointer := none, remoteWake := false }

end Sys2Proof.Machine
end

