-- ==== Sys2Proof/Machine/Flags.lean ====
section
/-! DEFINITION. Flags.lean: the sets, states and status bits that are derived from the records and never stored apart: the
desk modifier state (R13), the button sets (R80), the sets of sleeping computers (R155), the link status and ATTN
(R174, R175), the LED states and patterns (R170). -/

namespace Sys2Proof.Machine

/-! ## Sets -/

/-- The set of the computers that meet a test. -/
def compSetOf (test : Comp → Bool) : CompSet :=
  allComps.foldl (fun acc c => if test c then acc ||| (1 <<< c.val) else acc) 0

/-- Whether computer c is in a set. -/
def inSet (set : CompSet) (c : Comp) : Bool := set.getLsbD c.val

/-! ## Desk modifiers and buttons -/

/-- The merged modifiers of a keyboard's modifier set: bit 0 Ctrl, bit 1 Shift, bit 2 Alt, bit 3 GUI (R1, R181). -/
def mergeModifiers (mods : Byte) : BitVec 4 := mods.extractLsb' 0 4 ||| mods.extractLsb' 4 4

/-- What one desk port gives the desk modifier state (R13). -/
def DeskPort.merged : DeskPort → BitVec 4
  | .keyboard mods _ => mergeModifiers mods
  | _ => 0

/-- R13: the desk modifier state. -/
def State.deskModifiers (s : State) : BitVec 4 :=
  allDeskPorts.foldl (fun acc p => acc ||| s.diu[p].merged) 0

/-- R17: whether one merged modifier meets its part of a condition. -/
def Cond.met (held : Bool) : Cond → Bool
  | .any => true
  | .required => held
  | .absent => !held

/-- R17: whether the desk modifier state meets a condition. -/
def ModCond.met (mods : BitVec 4) (m : ModCond) : Bool :=
  m.ctrl.met (mods.getLsbD 0) && m.shift.met (mods.getLsbD 1) && m.alt.met (mods.getLsbD 2) && m.gui.met (mods.getLsbD 3)

/-- The buttons a POINTER port's previous report holds. -/
def DeskPort.held : DeskPort → Buttons
  | .pointer buttons => buttons
  | _ => 0

/-- R80: the desk button state. -/
def State.deskButtons (s : State) : Buttons :=
  allDeskPorts.foldl (fun acc p => acc ||| s.diu[p].held) 0

/-- R80: the delivered button set. -/
def State.deliveredButtons (s : State) : Buttons :=
  allDeskPorts.foldl (fun acc p => acc ||| (s.diu[p].held &&& ~~~ s.ptu.stale[p])) 0

/-! ## Desk sleep -/

/-- R155: asleep for desk purposes. -/
def PortState.asleepForDesk : PortState → Bool
  | .suspended | .default | .detached => true
  | .powered | .configured | .resuming => false

/-- R155: the computers of an awaited set whose ports are not asleep now. -/
def State.notAsleep (s : State) (awaited : CompSet) : CompSet :=
  compSetOf (fun c => inSet awaited c && !(s.comp c).port.asleepForDesk)

/-! ## The link -/

/-- R176: whether a PUT opened now would be accepted. -/
def Clp.putAcceptable (c : Clp) : Bool := decide (c.places < 4) && decide (c.outbound.length + c.places < 32)

/-- R174: the link status byte. -/
def Clp.linkStatus (c : Clp) : Byte := flagByte c.putAcceptable + (if c.outbound = [] then 0 else 2)

/-- R175: whether ATTN is driven low. -/
def State.attnLow (s : State) : Bool := !s.clp.outbound.isEmpty

/-! ## LEDs -/

/-- The LED states (R170). -/
inductive Led where
  | off
  | on
  | slowBlink
  | fastBlink
deriving DecidableEq, Repr

/-- R172. -/
def Led.code : Led → Byte
  | .off => 0
  | .on => 1
  | .slowBlink => 2
  | .fastBlink => 3

/-- R170: the LED state of a computer. -/
def State.led (s : State) (c : Comp) : Led :=
  match (s.comp c).port with
  | .resuming => .fastBlink
  | .suspended => .slowBlink
  | _ => if s.fcu.focus = c then .on else .off

/-- R170: whether a LED in a state is lit at time t since full reset. -/
def Led.lit (t : Time) : Led → Bool
  | .off => false
  | .on => true
  | .slowBlink => decide (t % 2000 < 1000)
  | .fastBlink => decide (t % 500 < 250)

/-- R170: the pattern of every panel now. -/
def State.pattern (s : State) : Byte := compSetOf (fun c => (s.led c).lit s.sinceReset)

/-- R170: whether any LED is in a blink state. -/
def State.anyBlink (s : State) : Bool :=
  allComps.any (fun c => decide (s.led c = .slowBlink) || decide (s.led c = .fastBlink))

end Sys2Proof.Machine
end

