-- ==== Sys2Proof/Machine/Layout.lean ====
section
/-! DEFINITION. Layout.lean: the reading of the layout: chains (R130, R131), the grid's cells (R85), the hit test (R84), the
mapping from the canvas to a computer (R86, R87), the places a warp searches (R65), liveness and darkness (R161), and the
drawing of a frame (R137 to R139). -/

namespace Sys2Proof.Machine

/-! ## Rectangles -/

/-- A point lies in a rectangle (00_scope.md, Conventions). -/
def Rect.contains (r : Rect) (x y : Nat) : Bool :=
  decide (r.x ≤ x) && decide (x < r.x + r.w) && decide (r.y ≤ y) && decide (y < r.y + r.h)

/-- The same for a point that may lie off the canvas (R83). -/
def Rect.containsInt (r : Rect) (x y : Int) : Bool :=
  decide ((r.x : Int) ≤ x) && decide (x < r.x + r.w) && decide ((r.y : Int) ≤ y) && decide (y < r.y + r.h)

/-- A destination rectangle lies within a size (R130). -/
def Rect.within (r : Rect) (w h : Nat) : Bool := decide (r.x + r.w ≤ w) && decide (r.y + r.h ≤ h)

/-- Two rectangles share a point (R125). -/
def Rect.overlaps (a b : Rect) : Bool :=
  decide (a.x < b.x + b.w) && decide (b.x < a.x + a.w) && decide (a.y < b.y + b.h) && decide (b.y < a.y + a.h)

/-- The centre of a rectangle (R65, R97). -/
def Rect.centre (r : Rect) : Nat × Nat := (r.x + r.w / 2, r.y + r.h / 2)

/-! ## Chains -/

/-- The records reached from a start by following next fields, at most `fuel` of them. R130 holds every chain to 32. -/
def followChain (tiles : Vector (Option Tile) 256) : Nat → Option TileId → List TileId
  | 0, _ => []
  | _ + 1, none => []
  | fuel + 1, some r =>
    match tiles[r] with
    | some tile => r :: followChain tiles fuel tile.next
    | none => []

/-- R130: the chain of a start. -/
def Lco.chain (l : Lco) (start : Option TileId) : List TileId := followChain l.tiles 32 start

/-- The active chain of a screen. -/
def Lco.activeChain (l : Lco) (scr : ScreenId) : List TileId := l.chain l.screens[scr].active

/-- The pending chain of a screen; empty where it has none. -/
def Lco.pendingChain (l : Lco) (scr : ScreenId) : List TileId :=
  match l.screens[scr].pending with
  | some start => l.chain start
  | none => []

/-- R130: a record is in a screen's chains. -/
def Lco.inChains (l : Lco) (scr : ScreenId) (r : TileId) : Bool :=
  (l.activeChain scr).contains r || (l.pendingChain scr).contains r

/-- A record is in some screen's chains (R128, R129). -/
def Lco.inAnyChain (l : Lco) (r : TileId) : Bool := allScreens.any (fun scr => l.inChains scr r)

/-- R131: the ways a walk fails. -/
inductive WalkFailure where
  | freeRecord
  | tooLong
  | outsideScreen
  | ownedElsewhere
deriving DecidableEq, Repr

/-- R131. -/
def WalkFailure.code : WalkFailure → Byte
  | .freeRecord => 1
  | .tooLong => 2
  | .outsideScreen => 3
  | .ownedElsewhere => 4

/-- R131: the walk of a chain for a screen, `fuel` records allowed yet. None is success; a failure names the record. -/
def Lco.walk (l : Lco) (scr : ScreenId) : Nat → Option TileId → Option (WalkFailure × TileId)
  | _, none => none
  | 0, some r => some (.tooLong, r)
  | fuel + 1, some r =>
    match l.tiles[r] with
    | none => some (.freeRecord, r)
    | some tile =>
      if allScreens.any (fun other => decide (other ≠ scr) && l.inChains other r) then some (.ownedElsewhere, r)
      else if !tile.rect.within l.screens[scr].rect.w l.screens[scr].rect.h then some (.outsideScreen, r)
      else l.walk scr fuel tile.next

/-- R131: SET CHAIN's walk, of at most 32 records. -/
def Lco.checkChain (l : Lco) (scr : ScreenId) (start : Option TileId) : Option (WalkFailure × TileId) :=
  l.walk scr 32 start

/-! ## Cells -/

/-- One axis of a grid (R85): where part k of n begins and how long it is, the last part taking what is left. -/
def gridPart (origin length n k : Nat) : Nat × Nat :=
  let base := length / n
  (origin + k * base, if k + 1 = n then length - base * (n - 1) else base)

/-- R85: the rectangle of cell i of a grid. -/
def cellRect (rect : Rect) (columns rows i : Nat) : Rect :=
  let (x, w) := gridPart rect.x rect.w columns (i % columns)
  let (y, h) := gridPart rect.y rect.h rows (i / columns)
  { x := x, y := y, w := w, h := h }

/-- R85: the cell that holds a local position inside the tile. -/
def cellAt (rect : Rect) (columns rows lx ly : Nat) : Nat :=
  let column := min ((lx - rect.x) / (rect.w / columns)) (columns - 1)
  let row := min ((ly - rect.y) / (rect.h / rows)) (rows - 1)
  row * columns + column

/-! ## What a tile shows -/

/-- R127: the showing head of a SINGLE tile. -/
def showingHead (primary : HeadId) (alternate : Option HeadId) : Showing → HeadId
  | .primary => primary
  | .alternate => alternate.getD primary

/-- The heads a tile shows, each with its rectangle and, for a GRID, its cell, in the order R65 searches them. A cell that
is EMPTY and a FILL tile show none. -/
def Tile.shown (tile : Tile) : List (Option (Fin 16) × Rect × HeadId) :=
  match tile.kind with
  | .single primary alternate showing _ _ _ => [(none, tile.rect, showingHead primary alternate showing)]
  | .grid columns rows cells _ =>
    cells.zipIdx.filterMap (fun (cell, i) =>
      cell.map (fun h => (some (Fin.ofNat 16 i), cellRect tile.rect columns rows i, h)))
  | .fill _ => []

/-! ## The screen under a point -/

/-- The placed screen whose rectangle holds a canvas point (R80). -/
def Lco.screenAt (l : Lco) (x y : Int) : Option ScreenId :=
  allScreens.find? (fun scr => l.screens[scr].placed && l.screens[scr].rect.containsInt x y)

/-- The lowest-indexed placed screen (R97); screen 0 where none is placed, which R125 keeps from happening (log 19). -/
def Lco.lowestPlaced (l : Lco) : ScreenId := (allScreens.find? (fun scr => l.screens[scr].placed)).getD 0

/-- The pointer's screen (R80); the lowest placed one where no screen holds the pointer, which no run reaches (log 19). -/
def State.pointerScreen (s : State) : ScreenId := (s.lco.screenAt s.ptu.px s.ptu.py).getD s.lco.lowestPlaced

/-! ## The hit test -/

/-- R86: one axis of source mapping, clamped to the head's measured extent. -/
def sourceAxis (local_ origin length sourceOrigin sourceLength measured : Nat) : Nat :=
  min (sourceOrigin + (local_ - origin) * sourceLength / length) (measured - 1)

/-- R87: one axis of absolute mapping. -/
def absoluteAxis (desktop extent : Nat) : Nat := min 32767 ((2 * desktop + 1) * 32768 / (2 * extent))

/-- The measured size of a head: 0 × 0 while NO SIGNAL (R120). -/
def Head.measured (h : Head) : Nat × Nat := h.size.getD (0, 0)

/-- R86: the source region of a head under a view. -/
def sourceRegion (h : Head) : View → Rect
  | .whole => { x := 0, y := 0, w := h.measured.1, h := h.measured.2 }
  | .crop region => region

/-- R86, R87: the hit on a head drawn at a rectangle, where the head has an owner. -/
def State.hitHead (s : State) (rect : Rect) (view : View) (h : HeadId) (lx ly : Nat) : Option Hit :=
  let head := s.lco.heads[h]
  match head.owner with
  | none => none
  | some c =>
    let region := sourceRegion head view
    let sx := sourceAxis lx rect.x rect.w region.x region.w head.measured.1
    let sy := sourceAxis ly rect.y rect.h region.y region.h head.measured.2
    some { target := c, ax := absoluteAxis (head.dx + sx) (s.comp c).dw, ay := absoluteAxis (head.dy + sy) (s.comp c).dh }

/-- R84: the last tile of a list whose rectangle contains a local position. -/
def Lco.lastTileAt (l : Lco) (lx ly : Nat) : List TileId → Option (TileId × Tile)
  | [] => none
  | r :: rest =>
    match l.lastTileAt lx ly rest with
    | some found => some found
    | none =>
      match l.tiles[r] with
      | some tile => if tile.rect.contains lx ly then some (r, tile) else none
      | none => none

/-- R84: what a tile gives at a local position: the cell, and the hit. -/
def State.hitTile (s : State) (tile : Tile) (lx ly : Nat) : Option (Fin 16) × Option Hit :=
  match tile.kind with
  | .fill _ => (none, none)
  | .single primary alternate showing _ view _ =>
    (none, s.hitHead tile.rect view (showingHead primary alternate showing) lx ly)
  | .grid columns rows cells _ =>
    let i := cellAt tile.rect columns rows lx ly
    (some (Fin.ofNat 16 i),
      match cells.getD i none with
      | some h => s.hitHead (cellRect tile.rect columns rows i) .whole h lx ly
      | none => none)

/-- R84: the hit test at the pointer's position. -/
def State.hitTest (s : State) : TileRef × Option Hit :=
  let scr := s.pointerScreen
  let lx := s.ptu.px - s.lco.screens[scr].rect.x
  let ly := s.ptu.py - s.lco.screens[scr].rect.y
  match s.lco.lastTileAt lx ly (s.lco.activeChain scr) with
  | none => ({ screen := scr, record := none, cell := none }, none)
  | some (r, tile) =>
    let (cell, hit) := s.hitTile tile lx ly
    ({ screen := scr, record := some r, cell := cell }, hit)

/-! ## The places of a warp -/

/-- R65: the centre, on the canvas, of the first place of a screen's active chain whose target is c. -/
def State.placeOn (s : State) (c : Comp) (scr : ScreenId) : Option (Nat × Nat) :=
  (s.lco.activeChain scr).findSome? (fun r =>
    match s.lco.tiles[r] with
    | none => none
    | some tile =>
      tile.shown.findSome? (fun (_, rect, h) =>
        if s.lco.heads[h].owner = some c then
          some (s.lco.screens[scr].rect.x + rect.centre.1, s.lco.screens[scr].rect.y + rect.centre.2)
        else none))

/-- R65: the centre of the first place showing c, the placed screens searched in ascending number. -/
def State.warpPlace (s : State) (c : Comp) : Option (Nat × Nat) :=
  allScreens.findSome? (fun scr => if s.lco.screens[scr].placed then s.placeOn c scr else none)

/-! ## Liveness and darkness -/

/-- R161: a shown head is live: it has signal and its owner's port is CONFIGURED. -/
def State.headLive (s : State) (h : HeadId) : Bool :=
  s.lco.heads[h].size.isSome &&
    (match s.lco.heads[h].owner with
      | some c => decide ((s.comp c).port = .configured)
      | none => false)

/-- R161: some tile or cell of a record is live. -/
def State.recordLive (s : State) (r : TileId) : Bool :=
  match s.lco.tiles[r] with
  | some tile => tile.shown.any (fun (_, _, h) => s.headLive h)
  | none => false

/-- R161: a screen is dark. -/
def State.dark (s : State) (scr : ScreenId) : Bool :=
  !s.lco.screens[scr].alwaysOn && !(s.lco.activeChain scr).any s.recordLive

/-! ## Drawing -/

/-- R139: the border of a tile or cell of border width b that shows computer c. -/
def State.borderFor (s : State) (width : Nat) (shown : Option Comp) : Option (Nat × Colour) :=
  if width = 0 then none
  else match shown with
    | none => none
    | some c =>
      if s.fcu.focus = c then
        some (width, if s.fcu.lock = .none then s.lco.borders.focus else s.lco.borders.lock)
      else if s.fcu.pending.map Pending.target = some c then some (width, s.lco.borders.pending)
      else none

/-- R137: a head drawn at a rectangle under a view, with its border. -/
def State.headLayer (s : State) (rect : Rect) (view : View) (width : Nat) (h : HeadId) : Layer :=
  let head := s.lco.heads[h]
  { rect := rect, content := .head h (sourceRegion head view) head.measured.1 head.measured.2,
    border := s.borderFor width head.owner }

/-- R137, R138: the layers of a tile. -/
def State.tileLayers (s : State) (tile : Tile) : List Layer :=
  match tile.kind with
  | .single primary alternate showing _ view border =>
    [s.headLayer tile.rect view border (showingHead primary alternate showing)]
  | .grid columns rows cells border =>
    cells.zipIdx.map (fun (cell, i) =>
      let rect := cellRect tile.rect columns rows i
      match cell with
      | some h => s.headLayer rect .whole border h
      | none => { rect := rect, content := .background, border := none })
  | .fill colour => [{ rect := tile.rect, content := .colour colour, border := none }]

/-- R137: the frame of a screen as the state now stands. -/
def State.frame (s : State) (scr : ScreenId) : Image :=
  let screen := s.lco.screens[scr]
  { width := screen.rect.w, height := screen.rect.h, background := screen.background,
    layers := (s.lco.activeChain scr).flatMap (fun r =>
      match s.lco.tiles[r] with
      | some tile => s.tileLayers tile
      | none => []) }

/-- What one pixel of a frame shows: a colour, or one pixel of a head (R137). -/
inductive Pixel where
  | colour (c : Colour)
  | source (h : HeadId) (x y : Nat)
deriving DecidableEq, Repr

/-- R139: a pixel lies fewer than b pixels from an edge of the rectangle. -/
def Rect.nearEdge (r : Rect) (b x y : Nat) : Bool :=
  decide (x < r.x + b) || decide (r.x + r.w ≤ x + b) || decide (y < r.y + b) || decide (r.y + r.h ≤ y + b)

/-- R137, R138: the content of a layer at a pixel of its rectangle. -/
def Layer.contentAt (l : Layer) (background : Colour) (x y : Nat) : Pixel :=
  match l.content with
  | .colour c => .colour c
  | .background => .colour background
  | .head h region width height =>
    let sx := region.x + (x - l.rect.x) * region.w / l.rect.w
    let sy := region.y + (y - l.rect.y) * region.h / l.rect.h
    if sx < width ∧ sy < height then .source h sx sy else .colour background

/-- R139: a layer at a pixel of its rectangle, its border over its content. -/
def Layer.pixelAt (l : Layer) (background : Colour) (x y : Nat) : Pixel :=
  match l.border with
  | some (b, c) => if l.rect.nearEdge b x y then .colour c else l.contentAt background x y
  | none => l.contentAt background x y

/-- R137: a pixel of a frame. The last layer over it is what it shows; with none, the background colour. -/
def Image.pixelAt (img : Image) (x y : Nat) : Pixel :=
  match (img.layers.filter (fun l => l.rect.contains x y)).getLast? with
  | some l => l.pixelAt img.background x y
  | none => .colour img.background

end Sys2Proof.Machine
end

