-- ==== Sys2Proof/Machine/PanelBus.lean ====
section
/-! DEFINITION. PanelBus.lean: the Panel Scanner as the arbiter of the panel bus (R167), and the derivation of the LED
states that the other blocks ask it for (R170). -/

namespace Sys2Proof.Machine

/-- The number of the first panel of a list that is PRESENT and meets a test, the list's head having number n. -/
def firstPanel (test : Panel → Bool) : Nat → List Panel → Option Nat
  | _, [] => none
  | n, p :: rest => if p.present && test p then some n else firstPanel test (n + 1) rest

/-- The table with panel n changed. -/
def Psc.modifyPanel (n : Nat) (f : Panel → Panel) (psc : Psc) : Psc := { psc with panels := psc.panels.modify n f }

/-- R167: the next waiting transaction on an idle bus: a probe of a running scan, else the read of the lowest-numbered
PRESENT panel with read due set, else the write of the lowest with write due set, which carries all ones to the low port and
the pattern as it stands to the high port (R170). A read that starts is no longer due (assumption log 10). -/
def Psc.startNext (pattern : Byte) (psc : Psc) : Psc :=
  match psc.scanner with
  | .scanning probe => { psc with bus := some (.probe probe) }
  | .idle =>
    match firstPanel Panel.readDue 0 psc.panels with
    | some n => { psc.modifyPanel n (fun p => { p with readDue := false }) with bus := some (.read n) }
    | none =>
      match firstPanel Panel.writeDue 0 psc.panels with
      | some n => { psc with bus := some (.write n 0xFF pattern false) }
      | none => psc

/-- R167: when the bus is idle, the next waiting transaction is started. -/
def State.startBus (s : State) : State :=
  if s.psc.bus = none then { s with psc := s.psc.startNext s.pattern } else s

/-- R167: a transaction ends, and the next is started. -/
def State.endTransaction (s : State) : State :=
  { s with psc := { s.psc with bus := none } }.startBus

/-- R170: a pattern is found while a transaction is on the bus. A write that carries another has seen the pattern change, and a
return to the carried pattern before it completes does not undo that (assumption log 11). -/
def BusTransaction.sees (pattern : Byte) : BusTransaction → BusTransaction
  | .write n low high changed => .write n low high (changed || decide (pattern ≠ high))
  | .probe address => .probe address
  | .earlierProbe address => .earlierProbe address
  | .read n => .read n

/-- R170: write due is set on every PRESENT panel whose last written pattern is not the pattern, or is absent, and a write on
the bus sees the pattern. -/
def Psc.markWrites (pattern : Byte) (psc : Psc) : Psc :=
  { psc with
    panels := psc.panels.map (fun p =>
      if p.present && decide (p.lastPattern ≠ some pattern) then { p with writeDue := true } else p)
    bus := psc.bus.map (BusTransaction.sees pattern) }

/-- R170: the PSC derives the LED states and line levels afresh. -/
def State.deriveLeds (s : State) : State :=
  { s with psc := s.psc.markWrites s.pattern }.startBus

end Sys2Proof.Machine
end

