-- ==== Sys2Proof/Machine/Glide.lean ====
section
/-! DEFINITION. Glide.lean: the Pointer Unit's re-evaluation up to the focus request it may make (R88, R89). -/

namespace Sys2Proof.Machine

/-- The state with the focus record replaced. -/
def State.setFcu (f : Fcu) (s : State) : State := { s with fcu := f }

/-- The state with the pointer record replaced. -/
def State.setPtu (p : Ptu) (s : State) : State := { s with ptu := p }

/-- R84: the hit test, written into the pointer record. -/
def State.makeHitTest (s : State) : State :=
  s.setPtu { s.ptu with hitTile := s.hitTest.1, hit := s.hitTest.2 }

/-- R66, R88 step 2: park is cleared when the tile identity under the pointer is not the park tile identity. -/
def State.clearPark (s : State) : State :=
  match s.fcu.park with
  | some tile => if tile = s.ptu.hitTile then s else s.setFcu { s.fcu with park := none }
  | none => s

/-- The computer now hit. -/
def State.hitComputer (s : State) : Option Comp := s.ptu.hit.map Hit.target

/-- R89: the computer dwell may run for: the hit target, where it is not the focus computer, the lock is NONE, the guard
does not run and park is clear. -/
def State.dwellTarget (s : State) : Option Comp :=
  match s.hitComputer with
  | some u =>
    if u ≠ s.fcu.focus ∧ s.fcu.lock = .none ∧ s.fcu.guard = none ∧ s.fcu.park = none then some u else none
  | none => none

/-- R89: the glide decision. A dwell it starts ends at the clock plus the dwell setting. -/
def State.glideDecision (s : State) : State :=
  match s.dwellTarget with
  | some u =>
    if s.fcu.pending.map Pending.target = some u then s
    else s.setFcu { s.fcu with pending := some { target := u, deadline := s.clock + s.ptu.dwell } }
  | none => s.setFcu { s.fcu with pending := none }

/-- R68: the glide decision of a focus change's sixth step, at which no dwell starts (assumption log 7). -/
def State.glideDecisionNoStart (s : State) : State :=
  match s.dwellTarget with
  | some u => if s.fcu.pending.map Pending.target = some u then s else s.setFcu { s.fcu with pending := none }
  | none => s.setFcu { s.fcu with pending := none }

/-- R88: a re-evaluation, up to the GLIDE request that a dwell setting of 0 makes at once. -/
def State.reevaluateCore (s : State) : State := s.makeHitTest.clearPark.glideDecision

/-- R89, third row: the GLIDE request that a re-evaluation from s to its core makes at once: with a dwell setting of 0, the
target it has just made pending. -/
def glideDue (s core : State) : Option Comp :=
  if core.ptu.dwell = 0 ∧ core.fcu.pending.map Pending.target ≠ s.fcu.pending.map Pending.target
  then core.fcu.pending.map Pending.target else none

end Sys2Proof.Machine
end

