-- ==== Sys2Proof/Machine/Screens.lean ====
section
/-! DEFINITION. Screens.lean: how a screen's chain and flips are applied (R133 to R136) and how its power state moves
(R161 to R163). The two call each other: a screen entering STANDBY has its chain applied at once, and a chain applied may
take it out again. `re` is the Pointer Unit's re-evaluation as the caller has it made: with the focus request it may make
(R88), or without it inside a focus change, when the Focus Unit takes no request (R62, assumption log 6). -/

namespace Sys2Proof.Machine

/-! ## Records -/

/-- The state with the LCO's records replaced. -/
def State.setLco (l : Lco) (s : State) : State := { s with lco := l }

/-- The state with the WPC's records replaced. -/
def State.setWpc (w : Wpc) (s : State) : State := { s with wpc := w }

/-- The LCO with a screen record replaced. -/
def Lco.setScreen (scr : ScreenId) (screen : Screen) (l : Lco) : Lco := { l with screens := l.screens.set scr screen }

/-- The LCO with a tile record replaced. -/
def Lco.setTile (r : TileId) (tile : Option Tile) (l : Lco) : Lco := { l with tiles := l.tiles.set r tile }

/-- The power state of a screen (R162). -/
def State.power (s : State) (scr : ScreenId) : Power := s.wpc.power[scr]

/-- Whether a screen is in STANDBY. -/
def Power.isStandby : Power → Bool
  | .standby _ => true
  | _ => false

/-! ## Flips -/

/-- Whether a record is a SINGLE tile whose flip pending is set (R133). -/
def Tile.flipWaits (tile : Tile) : Bool :=
  match tile.kind with
  | .single _ _ _ flipPending _ _ => flipPending
  | _ => false

/-- A record with flip pending set or cleared (R133, R135). -/
def Tile.withFlipPending (pending : Bool) (tile : Tile) : Tile :=
  match tile.kind with
  | .single p a showing _ v b => { tile with kind := .single p a showing pending v b }
  | _ => tile

/-- The other showing field (R136). -/
def Showing.toggle : Showing → Showing
  | .primary => .alternate
  | .alternate => .primary

/-- R136: a record with its showing field toggled and flip pending clear. -/
def Tile.flipped (tile : Tile) : Tile :=
  match tile.kind with
  | .single p a showing _ v b => { tile with kind := .single p a showing.toggle false v b }
  | _ => tile

/-- The showing field of a record. -/
def Tile.showing (tile : Tile) : Showing :=
  match tile.kind with
  | .single _ _ showing _ _ _ => showing
  | _ => .primary

/-- R133 step 2 for one record: a flip that waits is applied, and FLIP APPLIED is queued (R136). The Bool says so. -/
def State.applyFlip (scr : ScreenId) (s : State) (r : TileId) : State × Bool :=
  match s.lco.tiles[r] with
  | some tile =>
    if tile.flipWaits then
      (((s.setLco (s.lco.setTile r (some tile.flipped))).notify (.flipApplied scr r tile.flipped.showing)), true)
    else (s, false)
  | none => (s, false)

/-- R133 step 2 for a list of records, in order. -/
def State.applyFlips (scr : ScreenId) : List TileId → State → State × Bool
  | [], s => (s, false)
  | r :: rest, s =>
    let (s, one) := s.applyFlip scr r
    let (s, more) := State.applyFlips scr rest s
    (s, one || more)

/-! ## Applying what waits -/

/-- The LCO with flip pending cleared on every record of a list (R133 step 1). -/
def Lco.clearFlips (l : Lco) (records : List TileId) : Lco :=
  records.foldl (fun l r =>
    match l.tiles[r] with
    | some tile => l.setTile r (some (tile.withFlipPending false))
    | none => l) l

/-- R133 step 1: a pending chain becomes the active chain, the records it releases lose their flip pending, and CHAIN
APPLIED is queued. The Bool says whether there was one. -/
def State.applyPending (scr : ScreenId) (atOnce : Bool) (s : State) : State × Bool :=
  match s.lco.screens[scr].pending with
  | none => (s, false)
  | some start =>
    let released := (s.lco.activeChain scr).filter (fun r => !(s.lco.chain start).contains r)
    let l := (s.lco.setScreen scr { s.lco.screens[scr] with active := start, pending := none }).clearFlips released
    ((s.setLco l).notify (.chainApplied scr start atOnce), true)

/-- R133, steps 1 and 2. The Bool says whether a chain or a flip was applied. -/
def State.applyWaiting (scr : ScreenId) (atOnce : Bool) (s : State) : State × Bool :=
  let (s, chain) := s.applyPending scr atOnce
  let (s, flips) := s.applyFlips scr (s.lco.activeChain scr)
  (s, chain || flips)

/-- R133, R134: the LCO tells the Pointer Unit of an application on the pointer's screen. -/
def State.tellPointer (re : State → State) (scr : ScreenId) (s : State) : State :=
  if s.pointerScreen = scr then re s else s

/-! ## Power states -/

/-- A change of a screen's power state, with its SCREEN POWER notice (R163). A screen in STANDBY shows no frame (R124). -/
def State.setPower (scr : ScreenId) (p : Power) (s : State) : State :=
  let l := if p.isStandby then s.lco.setScreen scr { s.lco.screens[scr] with drawn := none } else s.lco
  ({ s with wpc := { s.wpc with power := s.wpc.power.set scr p }, lco := l }).notify
    (.screenPower scr p (s.power scr))

/-- R162, STANDBY row: a re-evaluation that finds the screen not dark, the desk not ASLEEP, takes it to ACTIVE. -/
def State.leaveStandbyIfLit (scr : ScreenId) (s : State) : State :=
  if (s.power scr).isStandby && !s.dark scr && decide (s.wpc.desk ≠ .asleep) then s.setPower scr .active else s

/-- R134: steps 1 and 2 of R133 carried out at once for a screen in STANDBY. The WPC and the Pointer Unit are told of an
application as at a frame start. DESIGN CHOICE: the WPC is told first and acts whole before the Pointer Unit (assumption log
28). -/
def State.applyAtOnce (re : State → State) (scr : ScreenId) (s : State) : State :=
  let (s, any) := s.applyWaiting scr true
  if any then (s.leaveStandbyIfLit scr).tellPointer re scr else s

/-- R162, R163: a screen enters STANDBY; the LCO is told after the SCREEN POWER notice. -/
def State.enterStandby (re : State → State) (scr : ScreenId) (forced : Bool) (s : State) : State :=
  (s.setPower scr (.standby forced)).applyAtOnce re scr

/-- R162: the hold deadline of a screen that enters DARK HOLD now. -/
def State.holdDeadline (s : State) : Time := s.clock + s.wpc.standbyHold * 1000

/-- R161, R162: a screen's darkness is re-evaluated. While the desk is ASLEEP this moves no screen. -/
def State.reevaluateScreen (re : State → State) (s : State) (scr : ScreenId) : State :=
  if s.wpc.desk = .asleep then s
  else match s.power scr with
    | .active =>
      if s.dark scr then
        if s.wpc.standbyHold = 0 then s.enterStandby re scr false else s.setPower scr (.darkHold s.holdDeadline)
      else s
    | .darkHold _ => if s.dark scr then s else s.setPower scr .active
    | .standby _ => s.leaveStandbyIfLit scr

/-- R161: every screen is re-evaluated, in ascending screen number. -/
def State.reevaluateScreens (re : State → State) (s : State) : State :=
  allScreens.foldl (State.reevaluateScreen re) s

/-- R162: one screen as the desk enters ASLEEP. -/
def State.forceStandby (re : State → State) (s : State) (scr : ScreenId) : State :=
  if (s.power scr).isStandby then s else s.enterStandby re scr true

/-- R162: one screen as the desk leaves ASLEEP. -/
def State.leaveForced (s : State) (scr : ScreenId) : State :=
  match s.power scr with
  | .standby forced =>
    if !s.dark scr then s.setPower scr .active
    else if forced && decide (s.wpc.standbyHold ≠ 0) then s.setPower scr (.darkHold s.holdDeadline)
    else s.setWpc { s.wpc with power := s.wpc.power.set scr (.standby false) }
  | _ => s

/-! ## Frame starts and asked-for changes -/

/-- R133: a frame start. A screen in STANDBY has none (R124). DESIGN CHOICE: of an application the WPC is told first and acts
whole before the Pointer Unit; R133 gives them no order (assumption log 28). -/
def State.frameStart (re : State → State) (scr : ScreenId) (s : State) : State :=
  if (s.power scr).isStandby then s
  else
    let (s, any) := s.applyWaiting scr false
    let s := s.setLco (s.lco.setScreen scr { s.lco.screens[scr] with drawn := some (s.frame scr) })
    if any then (s.reevaluateScreen re scr).tellPointer re scr else s

/-- R132: a chain whose walk has succeeded becomes the screen's pending chain, and is applied at once in STANDBY. The Bool
says which. -/
def State.takeChain (re : State → State) (scr : ScreenId) (start : Option TileId) (s : State) : State × Bool :=
  let s := s.setLco (s.lco.setScreen scr { s.lco.screens[scr] with pending := some start })
  if (s.power scr).isStandby then (s.applyAtOnce re scr, true) else (s, false)

/-- R135: the screen in whose active chain a flip of record r would be accepted. -/
def Lco.flipScreen (l : Lco) (r : TileId) : Option ScreenId :=
  match l.tiles[r] with
  | some { kind := .single _ (some _) _ _ _ _, .. } => allScreens.find? (fun scr => (l.activeChain scr).contains r)
  | _ => none

/-- R135: a flip is asked for. None is not accepted. In STANDBY it is applied at once. -/
def State.askFlip (re : State → State) (r : TileId) (s : State) : Option State :=
  match s.lco.flipScreen r, s.lco.tiles[r] with
  | some scr, some tile =>
    let s := s.setLco (s.lco.setTile r (some (tile.withFlipPending true)))
    some (if (s.power scr).isStandby then s.applyAtOnce re scr else s)
  | _, _ => none

end Sys2Proof.Machine
end

