-- ==== Sys2Proof/Machine/Keys.lean ====
section
/-! DEFINITION. Keys.lean: the Route Filter's tables: destinations (R43), the held key table (R44 to R47), key sets (R48) and
the snapshots handed for their changes (R50), release at a focus change (R51), loss of a port (R52), RESTART (R54). -/

namespace Sys2Proof.Machine

/-- The state with the RTF's tables replaced. -/
def State.setRtf (r : Rtf) (s : State) : State := { s with rtf := r }

/-! ## Key sets -/

/-- R44: an entry names a computer. -/
def HeldKey.names (k : HeldKey) (c : Comp) : Bool := decide (k.focusMember = some c) || inSet k.fixed c

/-- R48: the usages held on a computer, as the held key table gives them. -/
def heldUsages (held : List HeldKey) (c : Comp) : List Byte := ((held.filter (fun k => k.names c)).map HeldKey.usage).eraseDups

/-- R48: the key set that follows a key set: usages that left are taken out, usages that joined come last. -/
def nextKeySet (held : List HeldKey) (c : Comp) (old : List Byte) : List Byte :=
  let now := heldUsages held c
  old.filter (fun u => now.contains u) ++ now.filter (fun u => !old.contains u)

/-- R48, R50: a computer's key set is recomputed, and where it changed its port is handed the snapshot. -/
def State.refreshKeys (s : State) (c : Comp) : State :=
  let r := s.comp c
  let keys := nextKeySet s.rtf.held c r.keySet
  if keys = r.keySet then s else s.setComp c (({ r with keySet := keys }).takeSnapshot (snapshotOf keys))

/-- R48: the key sets of every computer are recomputed after a change of the held key table. Only those named by a changed
entry can change. -/
def State.setHeld (held : List HeldKey) (s : State) : State :=
  allComps.foldl State.refreshKeys (s.setRtf { s.rtf with held := held })

/-! ## Destinations -/

/-- R43: a rule matches a make. -/
def RouteRule.matchesMake (r : RouteRule) (port : DeskPortId) (usage : Byte) (mods : BitVec 4) : Bool :=
  r.enabled && r.ports.getLsbD port.val && decide (r.low ≤ usage) && decide (usage ≤ r.high) && r.cond.met mods

/-- R41: a destination: include focus, and the fixed mask. -/
structure Destination where
  includeFocus : Bool
  fixed : CompSet
deriving DecidableEq, Repr

/-- R43: the destination of a make: the first rule that matches, or the default destination. -/
def State.destination (s : State) (port : DeskPortId) (usage : Byte) : Destination :=
  match s.rtf.rules.toList.find? (fun r => r.matchesMake port usage s.deskModifiers) with
  | some r => { includeFocus := r.includeFocus, fixed := r.fixed }
  | none => { includeFocus := true, fixed := 0 }

/-- R41: a destination that names no computer whatever the focus. -/
def Destination.isEmpty (d : Destination) : Bool := !d.includeFocus && decide (d.fixed = 0)

/-! ## The held key table -/

/-- R45: the entry of a make, its members the computers whose ports take keys now. -/
def State.newEntry (s : State) (port : DeskPortId) (usage : Byte) (d : Destination) : HeldKey :=
  { port := port, usage := usage,
    focusMember := if d.includeFocus && (s.comp s.fcu.focus).port.accepting then some s.fcu.focus else none,
    fixed := compSetOf (fun c => inSet d.fixed c && (s.comp c).port.accepting) }

/-- Whether an entry is that of a desk port and usage (R44). -/
def HeldKey.isOf (port : DeskPortId) (usage : Byte) (k : HeldKey) : Bool :=
  decide (k.port = port) && decide (k.usage = usage)

/-- R47: the entry of a desk port and usage is removed, and what that changes is handed on. With no entry nothing changes. -/
def State.routeBreak (port : DeskPortId) (usage : Byte) (s : State) : State :=
  if s.rtf.held.any (HeldKey.isOf port usage) then
    s.setHeld (s.rtf.held.filter (fun k => !HeldKey.isOf port usage k))
  else s

/-- R45: a make whose destination is not empty. An old entry of the same key is first removed as its break would. -/
def State.createEntry (port : DeskPortId) (usage : Byte) (d : Destination) (s : State) : State :=
  let s := s.routeBreak port usage
  s.setHeld (s.rtf.held ++ [s.newEntry port usage d])

/-- R46: the members of an entry whose ports are SUSPENDED or RESUMING, in ascending order. -/
def State.sleepingMembers (s : State) (k : HeldKey) : List Comp :=
  allComps.filter (fun c =>
    k.names c && (decide ((s.comp c).port = .suspended) || decide ((s.comp c).port = .resuming)))

/-! ## Release and loss -/

/-- R51: the outgoing computer is released: it is focus member of no entry, and its key set is recomputed. -/
def State.releaseKeys (f : Comp) (s : State) : State :=
  (s.setRtf { s.rtf with held := s.rtf.held.map (fun k =>
    if k.focusMember = some f then { k with focusMember := none } else k) }).refreshKeys f

/-- R52: a computer whose port has left the accepting states is removed from every entry. -/
def HeldKey.without (c : Comp) (k : HeldKey) : HeldKey :=
  { k with focusMember := if k.focusMember = some c then none else k.focusMember,
           fixed := k.fixed &&& ~~~ (1#8 <<< c.val) }

/-- R52: the RTF's part in a port's loss. No snapshot is handed. -/
def State.dropComputer (c : Comp) (s : State) : State :=
  s.setRtf { s.rtf with held := s.rtf.held.map (HeldKey.without c) }

end Sys2Proof.Machine
end

