-- ==== Sys2Proof/Machine/Ports.lean ====
section
/-! DEFINITION. Ports.lean: a change of a computer port's state and what follows from it (R109, R110, R154, R157, R161,
R170), the desk entering ASLEEP (R157, R162), and wakes (R150 to R152). `re` is the Pointer Unit's re-evaluation, as in
Screens.lean. -/

namespace Sys2Proof.Machine

/-! ## The desk entering ASLEEP -/

/-- A change of the desk state with its DESK STATE notice (R160). `awaited` is the set as it stood before any emptying of the
change. DESIGN CHOICE: the not-asleep set of the notice is read over that set too, not over the emptied one (assumption log
27). -/
def State.setDesk (new : DeskState) (cause : DeskCause) (awaited : CompSet) (s : State) : State :=
  (s.setWpc { s.wpc with desk := new }).notify (.deskState new s.wpc.desk cause awaited (s.notAsleep awaited))

/-- R157, R162, R163: the desk enters ASLEEP: the desk deadline is cleared, DESK STATE is queued, and every screen not in
STANDBY enters it with the forced mark set. -/
def State.enterAsleep (re : State → State) (cause : DeskCause) (s : State) : State :=
  let s := s.setWpc { s.wpc with deskDeadline := none }
  allScreens.foldl (State.forceStandby re) (s.setDesk .asleep cause s.wpc.awaited)

/-- R157: the completion test. -/
def State.completionTest (re : State → State) (s : State) : State :=
  if s.wpc.desk = .sleepRequested ∧ s.notAsleep s.wpc.awaited = 0 then s.enterAsleep re .allAsleep else s

/-! ## The end of a wake attempt -/

/-- R154: elapsed time in units of 10 ms, rounded down (assumption log 16), held at 255. -/
def elapsedByte (start now : Time) : Byte := byte (min 255 ((now - start) / 10))

/-- R154: the attempt outstanding for c ends, its slot is emptied and WAKE RESULT is queued. An empty slot ends nothing. -/
def State.endAttempt (c : Comp) (result : WakeEnd) (s : State) : State :=
  match s.wpc.wakes[c] with
  | some a =>
    (s.setWpc { s.wpc with wakes := s.wpc.wakes.set c none }).notify
      (.wakeResult c result a.cause (elapsedByte a.start s.clock))
  | none => s

/-- R107, R154: how an attempt ends when its port leaves RESUMING for a state. -/
def PortState.wakeEnd : PortState → WakeEnd
  | .configured => .resumed
  | .suspended => .timeout
  | .default => .busReset
  | _ => .detached

/-! ## A change of port state -/

/-- R103 to R109: the record on entering a state. Entering DEFAULT or DETACHED from an accepting state clears it, and from
any state clears the permission (R108). -/
def Computer.enter (new : PortState) (r : Computer) : Computer :=
  if new.accepting then { r with port := new }
  else if r.port.accepting then { r.cleared with port := new }
  else { r with port := new, remoteWake := if new = .powered then r.remoteWake else false }

/-- R52, R109: the record's change of state, and the RTF's part where the port leaves the accepting states. -/
def State.enterPort (c : Comp) (new : PortState) (s : State) : State :=
  let old := (s.comp c).port
  let s := s.setComp c ((s.comp c).enter new)
  if old.accepting && !new.accepting then s.dropComputer c else s

/-- R110, R157: what follows a change of state: the PORT STATE notice; the WPC ends a wake attempt, makes the completion
test and re-evaluates darkness; the PSC derives the LED states (assumption log 8). -/
def State.afterChange (re : State → State) (c : Comp) (old new : PortState) (s : State) : State :=
  let s := s.notify (.portState c new old (s.comp c).remoteWake)
  let s := if old = .resuming then s.endAttempt c new.wakeEnd else s
  let s := if inSet s.wpc.awaited c then s.completionTest re else s
  (s.reevaluateScreens re).deriveLeds

/-- R102, R110: a port's change of state. A state that is the same is no change. -/
def State.changePort (re : State → State) (c : Comp) (new : PortState) (s : State) : State :=
  let old := (s.comp c).port
  if old = new then s else (s.enterPort c new).afterChange re c old new

/-! ## Wakes -/

/-- The result of a wake request (R151). -/
inductive WakeAnswer where
  | started
  | noPermission
  | joined
  | notAsleep
deriving DecidableEq, Repr

/-- R151: what a wake of a computer comes to, by its port's state and permission. -/
def Computer.wakeAnswer (r : Computer) : WakeAnswer :=
  match r.port, r.remoteWake with
  | .suspended, true => .started
  | .suspended, false => .noPermission
  | .resuming, true => .joined
  | _, _ => .notAsleep

/-- R151: the WPC takes a wake of computer c. -/
def State.wake (re : State → State) (c : Comp) (cause : WakeCause) (s : State) : State :=
  match (s.comp c).wakeAnswer with
  | .started =>
    let attempt := { cause := cause, start := s.clock, deadline := s.clock + s.wpc.wakeTimeout }
    (s.setWpc { s.wpc with wakes := s.wpc.wakes.set c (some attempt) }).changePort re c .resuming
  | .noPermission => s.notify (.wakeResult c .noPermission cause 0)
  | .joined => s
  | .notAsleep => s

/-- R152: the WPC is told of input for computer c, and asks for a wake where its wake-on-input flag is set. -/
def State.inputWake (re : State → State) (s : State) (c : Comp) : State :=
  if (s.comp c).wakeOnInput then s.wake re c .input else s

/-- R107: a wake timeout's effect on the record: the queue emptied, both owed flags set, the last queued snapshot absent. -/
def Computer.timedOut (r : Computer) : Computer :=
  { r with queue := [], owedKeyboard := true, owedPointer := true, lastSnapshot := none }

end Sys2Proof.Machine
end

