-- ==== Sys2Proof/Machine/Focus.lean ====
section
/-! DEFINITION. Focus.lean: focus requests (R58, R59), the focus change in its seven steps (R62 to R68), the re-evaluation
with the request it may make (R88, R89), and the locks (R72 to R75). -/

namespace Sys2Proof.Machine

/-! ## Pointer reports to a computer -/

/-- R63, R99: a report with no buttons, at the computer's last sent position, where its last sent buttons are not empty. -/
def State.releaseButtons (s : State) (c : Comp) : State :=
  match (s.comp c).lastPointer with
  | some p => if p.buttons = 0 then s else s.handPointer c { p with buttons := 0 } 0
  | none => s

/-- R63, R96: every desk button now held is marked stale. -/
def State.markStale (s : State) : State :=
  let mark (p : DeskPortId) : Buttons := s.ptu.stale[p] ||| s.diu[p].held
  s.setPtu { s.ptu with stale := #v[mark 0, mark 1, mark 2, mark 3] }

/-! ## The focus change -/

/-- R64: step 3. -/
def State.writeFocus (target : Comp) (cause : FocusCause) (s : State) : State :=
  s.setFcu { s.fcu with
    focus := target, lastCause := cause, pending := none, park := none,
    guard := if s.ptu.guard = 0 then none else some (s.clock + s.ptu.guard) }

/-- R65: the warp: the pointer at the centre of the first place showing the target, its remainders 0. With no place the
pointer is not moved. -/
def State.warp (target : Comp) (s : State) : State :=
  match s.warpPlace target with
  | some (x, y) => s.setPtu { s.ptu with px := x, py := y, fx := 0, fy := 0 }
  | none => s

/-- R65, R66: step 4: for every cause but GLIDE a warp; then the hit test, and park for every cause but GLIDE where the hit
target is not the target. -/
def State.warpAndPark (target : Comp) (cause : FocusCause) (s : State) : State :=
  if cause = .glide then s.makeHitTest
  else
    let s := (s.warp target).makeHitTest
    if s.hitComputer = some target then s else s.setFcu { s.fcu with park := some s.ptu.hitTile }

/-- R67: step 5. Inside the change the Focus Unit takes no request (R62), so re-evaluations make none (log 6). -/
def State.wakeForFocus (target : Comp) (s : State) : State :=
  if (s.comp target).port = .suspended ∧ (s.comp target).wakeOnFocus then s.wake State.reevaluateCore target .focus else s

/-- R68: step 6: the re-evaluation, at which no dwell starts (log 7), and the arrival report. -/
def State.arrive (target : Comp) (s : State) : State :=
  let s := s.makeHitTest.clearPark.glideDecisionNoStart
  match s.ptu.hit with
  | some hit => if hit.target = target then s.handPointer target { buttons := 0, ax := hit.ax, ay := hit.ay } 0 else s
  | none => s

/-- R68: a FOCUS notice. -/
def State.focusNotice (previous : Comp) (cause : Byte) (s : State) : State :=
  s.notify (.focus s.fcu.focus previous cause s.fcu.lock s.fcu.park.isSome)

/-- R62: the focus change to a computer, its seven steps in order; then the PSC derives the LED states (R170). -/
def State.changeFocus (target : Comp) (cause : FocusCause) (s : State) : State :=
  let previous := s.fcu.focus
  let s := (s.releaseButtons previous).markStale
  let s := s.releaseKeys previous
  let s := s.writeFocus target cause
  let s := s.warpAndPark target cause
  let s := s.wakeForFocus target
  let s := s.arrive target
  (s.focusNotice previous cause.code).deriveLeds

/-! ## Focus requests -/

/-- R59: the judging of a request. -/
def Fcu.judge (target : Comp) (cause : FocusCause) (forced : Bool) (f : Fcu) : FocusOutcome :=
  if cause = .glide ∧ f.pending.map Pending.target ≠ some target then .ignored
  else if f.focus = target then .ignored
  else if f.lock = .hard ∧ ¬ forced then .refusedLocked
  else .done

/-- R75: the lock on leaving HARD. -/
def State.lockOnLeavingHard (s : State) : Lock := if s.deskButtons = 0 then .none else .soft

/-- R59: a request is judged and, where granted, carried out. A forced one under HARD first clears the lock (R75). -/
def State.grant (target : Comp) (cause : FocusCause) (forced : Bool) (s : State) : State :=
  match s.fcu.judge target cause forced with
  | .done =>
    let s := if s.fcu.lock = .hard then s.setFcu { s.fcu with lock := s.lockOnLeavingHard } else s
    s.changeFocus target cause
  | .refusedLocked => s
  | .ignored => s

/-- The GLIDE request that a re-evaluation inside a focus change has made, with a dwell setting of 0, and that the Focus
Unit takes once the change is done (R62, R89, assumption log 6). -/
def State.takeDeferredGlide (s : State) : State :=
  match s.fcu.pending with
  | some p => if s.ptu.dwell = 0 then s.grant p.target .glide false else s
  | none => s

/-- R58: the Focus Unit takes a focus request whole. -/
def State.requestFocus (target : Comp) (cause : FocusCause) (forced : Bool) (s : State) : State :=
  match s.fcu.judge target cause forced with
  | .done => (s.grant target cause forced).takeDeferredGlide
  | .refusedLocked => s
  | .ignored => s

/-- R88, R89: a re-evaluation. With a dwell setting of 0 it makes a GLIDE request at once. -/
def State.reevaluate (s : State) : State :=
  match glideDue s s.reevaluateCore with
  | some u => s.reevaluateCore.requestFocus u .glide false
  | none => s.reevaluateCore

/-! ## SELECT NEXT and SELECT PREV -/

/-- R60: the first computer of an offset order after the focus computer whose port is not DETACHED. -/
def State.selectFrom (s : State) (offsets : List (Fin 8)) : Option Comp :=
  (offsets.map (fun d => s.fcu.focus + d)).find? (fun c => decide ((s.comp c).port ≠ .detached))

/-- R60: ascending, wrapping from 7 to 0. -/
def State.nextComputer (s : State) : Option Comp := s.selectFrom [1, 2, 3, 4, 5, 6, 7]

/-- R60: descending, wrapping from 0 to 7. -/
def State.prevComputer (s : State) : Option Comp := s.selectFrom [7, 6, 5, 4, 3, 2, 1]

/-! ## Locks -/

/-- R72: a button make has been delivered. -/
def State.setSoft (s : State) : State :=
  if s.fcu.lock = .none then s.setFcu { s.fcu with lock := .soft, pending := none } else s

/-- R73: no desk button is held any more. -/
def State.clearSoft (s : State) : State :=
  if s.fcu.lock = .soft then (s.setFcu { s.fcu with lock := .none }).reevaluate else s

/-- R68: the cause byte LOCK of a FOCUS notice. -/
def lockCauseByte : Byte := 5

/-- R74: the lock becomes HARD from NONE or SOFT. -/
def State.setHard (s : State) : State :=
  if s.fcu.lock = .hard then s
  else (s.setFcu { s.fcu with lock := .hard, pending := none }).focusNotice s.fcu.focus lockCauseByte

/-- R75: the lock leaves HARD. -/
def State.clearHard (s : State) : State :=
  if s.fcu.lock = .hard then (s.setFcu { s.fcu with lock := s.lockOnLeavingHard }).focusNotice s.fcu.focus lockCauseByte
  else s

end Sys2Proof.Machine
end

