-- ==== Sys2Proof/Machine/DeskSleep.lean ====
section
/-! DEFINITION. DeskSleep.lean: desk sleep, its cancellation and the waking of the desk (R156 to R159), and the desk input
gate (R158). -/

namespace Sys2Proof.Machine

/-- R156, R158: a code and then NONE, handed to a computer. -/
def State.handCode (code : SystemCode) (s : State) (c : Comp) : State := (s.handSystem c code).handSystem c .none

/-- R156: the computers that a desk sleep asks. -/
def State.sleepers (s : State) : CompSet :=
  compSetOf (fun c => decide ((s.comp c).port = .configured) && (s.comp c).sleepsWithDesk)

/-- R156: desk sleep starts, from AWAKE. -/
def State.startSleep (s : State) : State :=
  let asked := s.sleepers
  let s := s.setWpc { s.wpc with awaited := asked }
  let s := (allComps.filter (inSet asked)).foldl (State.handCode .sleep) s
  let s := s.setWpc { s.wpc with deskDeadline := some (s.clock + s.wpc.sleepTimeout) }
  (s.setDesk .sleepRequested .request asked).completionTest State.reevaluate

/-- R158: desk sleep is cancelled, from SLEEP REQUESTED. -/
def State.cancelSleep (cause : DeskCause) (s : State) : State :=
  let awaited := s.wpc.awaited
  let s := s.setWpc { s.wpc with deskDeadline := none }
  let s := (allComps.filter (fun c => inSet awaited c && decide ((s.comp c).port = .configured))).foldl
    (State.handCode .wake) s
  let s := s.setWpc { s.wpc with awaited := 0 }
  s.setDesk .awake cause awaited

/-- R158: the desk is woken, from ASLEEP: AWAKE with its notice, then every screen leaves forced standby. -/
def State.wakeDesk (cause : DeskCause) (s : State) : State :=
  let awaited := s.wpc.awaited
  let s := (s.setWpc { s.wpc with awaited := 0 }).setDesk .awake cause awaited
  allScreens.foldl State.leaveForced s

/-- R158: an input event wakes the desk, and then the focus computer where its port is SUSPENDED. -/
def State.wakeDeskByInput (s : State) : State :=
  let s := s.wakeDesk .input
  if (s.comp s.fcu.focus).port = .suspended then s.wake State.reevaluate s.fcu.focus .desk else s

/-- The events the DIU hands on (R11). -/
inductive DeskEvent where
  | keyMake (p : DeskPortId) (usage : Byte)
  | keyBreak (p : DeskPortId) (usage : Byte)
  | buttonMake (p : DeskPortId) (b : Fin 5)
  | buttonBreak (p : DeskPortId) (b : Fin 5)
  | motion (p : DeskPortId) (dx dy : Int)
  | wheel (p : DeskPortId) (amount : Int)
deriving DecidableEq, Repr

/-- R158: the wake motion of a MOTION is at least 4. -/
def largeMotion (dx dy : Int) : Bool := decide (4 ≤ dx.natAbs + dy.natAbs)

/-- R158: a make, or a large motion. -/
def DeskEvent.rouses : DeskEvent → Bool
  | .keyMake _ _ => true
  | .buttonMake _ _ => true
  | .motion _ dx dy => largeMotion dx dy
  | .keyBreak _ _ => false
  | .buttonBreak _ _ => false
  | .wheel _ _ => false

/-- A break, which the gate passes in every state (R158). -/
def DeskEvent.isBreak : DeskEvent → Bool
  | .keyBreak _ _ => true
  | .buttonBreak _ _ => true
  | .keyMake _ _ => false
  | .buttonMake _ _ => false
  | .motion _ _ _ => false
  | .wheel _ _ => false

/-- R96, R158: a BUTTON MAKE consumed in waking the desk adds its pair to the stale marks. -/
def State.markConsumed (e : DeskEvent) (s : State) : State :=
  match e with
  | .buttonMake p b => s.setPtu { s.ptu with stale := s.ptu.stale.set p (s.ptu.stale[p] ||| (1#5 <<< b.val)) }
  | _ => s

/-- R158: the desk sleep gate: the state after it, and whether the event passes. -/
def State.gate (e : DeskEvent) (s : State) : State × Bool :=
  match s.wpc.desk with
  | .awake => (s, true)
  | .sleepRequested => (if e.rouses then s.cancelSleep .input else s, true)
  | .asleep =>
    if e.isBreak then (s, true)
    else if e.rouses then (s.wakeDeskByInput.markConsumed e, false)
    else (s, false)

end Sys2Proof.Machine
end

