-- ==== Sys2Proof/Machine/Presets.lean ====
section
/-! DEFINITION. Presets.lean: the applying and cycling of presets (R144 to R148). -/

namespace Sys2Proof.Machine

/-- What one screen of an application comes to (R144, R147). -/
inductive ScreenOutcome where
  | kept
  | pending
  | appliedAtOnce
  | notPlaced
  | chainInvalid (failure : WalkFailure) (r : TileId)
deriving DecidableEq, Repr

/-- R147: the outcome's three bytes in a PRESET RESULT notice. -/
def ScreenOutcome.bytes : ScreenOutcome → List Byte
  | .kept => [0, 0, 0]
  | .pending => [1, 0, 0]
  | .appliedAtOnce => [2, 0, 0]
  | .notPlaced => [3, 0, 0]
  | .chainInvalid f r => [4, f.code, byte r.val]

/-- R147: an outcome that the reply's first byte counts. -/
def ScreenOutcome.failed : ScreenOutcome → Bool
  | .notPlaced => true
  | .chainInvalid _ _ => true
  | .kept => false
  | .pending => false
  | .appliedAtOnce => false

/-- R144, R145: one screen entry is taken. -/
def State.takeEntry (scr : ScreenId) (e : PresetEntry) (s : State) : State × ScreenOutcome :=
  match e with
  | .keep => (s, .kept)
  | .chain start =>
    if !s.lco.screens[scr].placed then (s, .notPlaced)
    else match s.lco.checkChain scr start with
      | some (f, r) => (s, .chainInvalid f r)
      | none =>
        match s.takeChain State.reevaluate scr start with
        | (s', true) => (s', .appliedAtOnce)
        | (s', false) => (s', .pending)

/-- R144: the screen entries are taken one at a time, in the list's order. -/
def State.takeEntries (p : Preset) : List ScreenId → State → State × List ScreenOutcome
  | [], s => (s, [])
  | scr :: rest, s =>
    let (s, outcome) := s.takeEntry scr p.screens[scr]
    let (s, outcomes) := State.takeEntries p rest s
    (s, outcome :: outcomes)

/-- R146, R147: the focus step, and its outcome byte: 3 for NONE. -/
def State.presetFocus (p : Preset) (s : State) : State × Byte :=
  match p.focus with
  | none => (s, 3)
  | some c => (s.requestFocus c .preset false, (s.fcu.judge c .preset false).code)

/-- What an application came to: the screens' outcomes and the focus outcome byte. -/
structure PresetOutcome where
  screens : List ScreenOutcome
  focus : Byte
deriving DecidableEq, Repr

/-- R144 to R147: the application of a WRITTEN preset n. -/
def State.applyWritten (n : PresetId) (p : Preset) (s : State) : State × PresetOutcome :=
  let s := s.setLco { s.lco with lastPreset := some n }
  let (s, outcomes) := State.takeEntries p allScreens s
  let (s, focus) := s.presetFocus p
  (s.notify (.presetResult n (outcomes.flatMap ScreenOutcome.bytes) focus), { screens := outcomes, focus := focus })

/-- R144: preset n is applied; an EMPTY one is not. -/
def State.applyPreset (n : PresetId) (s : State) : Option (State × PresetOutcome) :=
  (s.lco.presets[n]).map (fun p => s.applyWritten n p)

/-- R148: the preset that PRESET NEXT would apply: the link of the last applied preset. -/
def Lco.nextPreset (l : Lco) : Option PresetId :=
  match l.lastPreset with
  | none => none
  | some n => match l.presets[n] with
    | none => none
    | some p => p.next

end Sys2Proof.Machine
end

