-- ==== Sys2Proof/Machine/Hotkeys.lean ====
section
/-! DEFINITION. Hotkeys.lean: the Hotkey Sequencer: what it does with each key event (R20 to R37), and the commands it
executes (R38, R39). -/

namespace Sys2Proof.Machine

/-- The state with the HKS's records replaced. -/
def State.setHks (h : Hks) (s : State) : State := { s with hks := h }

/-! ## To the Route Filter -/

/-- R43 to R46: the RTF takes a KEY MAKE: a dropped make changes nothing; any other creates an entry, and the WPC is told of
the members asleep when the make was taken, in ascending order (assumption log 20). -/
def State.routeMake (p : DeskPortId) (usage : Byte) (s : State) : State :=
  let d := s.destination p usage
  if d.isEmpty then s
  else (s.sleepingMembers (s.newEntry p usage d)).foldl (State.inputWake State.reevaluate) (s.createEntry p usage d)

/-- The RTF takes a key event. -/
def State.route (s : State) (e : KeyEvent) : State :=
  if e.make then s.routeMake e.port e.usage else s.routeBreak e.port e.usage

/-- The sequencer enters IDLE, which clears the fields of its state (R20), with the hold buffer empty. -/
def Hks.toIdle (h : Hks) : Hks := { h with seq := .idle, hold := [] }

/-- R21: the hold buffer is released to the Route Filter, oldest first, and the sequencer enters IDLE. -/
def State.releaseHold (s : State) : State := s.hks.hold.foldl State.route (s.setHks s.hks.toIdle)

/-- R22: the hold buffer is discarded and the sequencer enters IDLE. -/
def State.discardHold (s : State) : State := s.setHks s.hks.toIdle

/-! ## Commands -/

/-- A command's outcome (R38). -/
abbrev CommandResult := State × FocusOutcome

/-- R38: the outcome of a focus request by hotkey. -/
def State.selectComputer (c : Comp) (s : State) : CommandResult :=
  (s.requestFocus c .hotkey false, s.fcu.judge c .hotkey false)

/-- R38, R60: SELECT NEXT and SELECT PREV for the computer found. -/
def State.selectFound (found : Option Comp) (s : State) : CommandResult :=
  match found with
  | some c => s.selectComputer c
  | none => (s, .ignored)

/-- R38, R151: WAKE n: IGNORED for NOT ASLEEP. -/
def State.wakeCommand (c : Comp) (s : State) : CommandResult :=
  match (s.comp c).wakeAnswer with
  | .notAsleep => (s, .ignored)
  | .started => (s.wake State.reevaluate c .hotkey, .done)
  | .noPermission => (s.wake State.reevaluate c .hotkey, .done)
  | .joined => (s.wake State.reevaluate c .hotkey, .done)

/-- R38, R144: PRESET n. -/
def State.presetCommand (n : PresetId) (s : State) : CommandResult :=
  match s.applyPreset n with
  | some (s', _) => (s', .done)
  | none => (s, .ignored)

/-- R38: the owning block carries out a command. -/
def State.runCommand (command : Command) (argument : Byte) (s : State) : CommandResult :=
  match command with
  | .select => s.selectComputer (Fin.ofNat 8 argument.toNat)
  | .selectNext => s.selectFound s.nextComputer
  | .selectPrev => s.selectFound s.prevComputer
  | .preset => s.presetCommand (Fin.ofNat 16 argument.toNat)
  | .presetNext =>
    match s.lco.nextPreset with
    | some n => s.presetCommand n
    | none => (s, .ignored)
  | .flip =>
    match s.askFlip State.reevaluate (Fin.ofNat 256 argument.toNat) with
    | some s' => (s', .done)
    | none => (s, .ignored)
  | .lock => (s.setHard, if s.fcu.lock = .hard then .ignored else .done)
  | .unlock => (s.clearHard, if s.fcu.lock = .hard then .done else .ignored)
  | .lockToggle => (if s.fcu.lock = .hard then s.clearHard else s.setHard, .done)
  | .wake => s.wakeCommand (Fin.ofNat 8 argument.toNat)
  | .wakeFocus => s.wakeCommand s.fcu.focus
  | .deskSleep => if s.wpc.desk = .awake then (s.startSleep, .done) else (s, .ignored)
  | .hostCode => (s, .done)

/-- R38, R39: an entry fires: its command executes, and then the HOTKEY notice is sent. -/
def State.fire (entry : Fin 24) (command : Command) (argument : Byte) (s : State) : State :=
  let (s, outcome) := s.runCommand command argument
  s.notify (.hotkey (byte entry.val) outcome.code command.code argument)

/-! ## The swallowed-key list -/

/-- R23: a make is swallowed; a full list first loses its oldest entry. -/
def Hks.swallow (p : DeskPortId) (usage : Byte) (h : Hks) : Hks :=
  let kept := if h.swallowed.length < 4 then h.swallowed else h.swallowed.drop 1
  { h with swallowed := kept ++ [(p, usage)] }

/-! ## Matching -/

/-- R16, R17: an entry matches a make of a usage. -/
def HotkeyEntry.fits (kinds : TriggerKind → Bool) (usage : Byte) (mods : BitVec 4) (e : HotkeyEntry) : Bool :=
  e.enabled && kinds e.kind && decide (e.usage = usage) && e.cond.met mods

/-- R16: the lowest-indexed entry that matches. -/
def State.matchEntry (kinds : TriggerKind → Bool) (usage : Byte) (s : State) : Option (Fin 24) :=
  (List.finRange 24).find? (fun i => s.hks.table[i].fits kinds usage s.deskModifiers)

/-- The chord kinds, which IDLE tries in one index order (R16). -/
def TriggerKind.isChord : TriggerKind → Bool
  | .chordMake => true
  | .chordBreak => true
  | .sequence => false

/-- The kind that ARMED tries (R16). -/
def TriggerKind.isSequence : TriggerKind → Bool
  | .sequence => true
  | .chordMake => false
  | .chordBreak => false

/-! ## Holding -/

/-- R36: an event is held and the sequencer takes a state; where the hold buffer already holds 8 events, the held events are
released, the sequencer enters IDLE and the event passes to the Route Filter after them. -/
def State.holdEvent (e : KeyEvent) (next : Sequencer) (s : State) : State :=
  if s.hks.hold.length < 8 then s.setHks { s.hks with hold := s.hks.hold ++ [e], seq := next }
  else s.releaseHold.route e

/-- R20: whether the hold buffer has an open held make of a desk port and usage: one with no break of the same after it. -/
def openMake (p : DeskPortId) (usage : Byte) (hold : List KeyEvent) : Bool :=
  match (hold.filter (fun e => decide (e.port = p) && decide (e.usage = usage))).getLast? with
  | some e => e.make
  | none => false

/-! ## Makes -/

/-- R25: a make taken in IDLE. -/
def State.makeInIdle (p : DeskPortId) (usage : Byte) (s : State) : State :=
  if s.hks.leader = some usage then
    s.holdEvent { port := p, make := true, usage := usage } (.firstTap .firstDown (s.clock + s.hks.tapWindow))
  else match s.matchEntry TriggerKind.isChord usage with
    | some i =>
      let e := s.hks.table[i]
      if e.kind = .chordMake then (s.setHks (s.hks.swallow p usage)).fire i e.command e.argument
      else s.holdEvent { port := p, make := true, usage := usage } (.chordHeld i e.command e.argument)
    | none => s.routeMake p usage

/-- R32 to R34: a make taken in ARMED. -/
def State.makeInArmed (deadline : Time) (p : DeskPortId) (usage : Byte) (s : State) : State :=
  if isModifier usage then s.holdEvent { port := p, make := true, usage := usage } (.armed deadline)
  else match s.matchEntry TriggerKind.isSequence usage with
    | some i =>
      let e := s.hks.table[i]
      let s := s.discardHold
      (s.setHks (s.hks.swallow p usage)).fire i e.command e.argument
    | none => s.releaseHold.routeMake p usage

/-- R25 to R34: the HKS takes a KEY MAKE. -/
def State.takeKeyMake (p : DeskPortId) (usage : Byte) (s : State) : State :=
  match s.hks.seq with
  | .idle => s.makeInIdle p usage
  | .chordHeld _ _ _ => s.releaseHold.routeMake p usage
  | .firstTap phase _ =>
    if phase = .firstUp ∧ s.hks.leader = some usage then
      s.holdEvent { port := p, make := true, usage := usage } (.firstTap .secondDown (s.clock + s.hks.tapWindow))
    else s.releaseHold.makeInIdle p usage
  | .armed deadline => s.makeInArmed deadline p usage

/-! ## Breaks -/

/-- R24 step 2: a break of a held make. -/
def State.breakOfHeld (p : DeskPortId) (usage : Byte) (s : State) : State :=
  let e : KeyEvent := { port := p, make := false, usage := usage }
  match s.hks.seq with
  | .firstTap .firstDown _ => s.holdEvent e (.firstTap .firstUp (s.clock + s.hks.tapWindow))
  | .firstTap .secondDown _ => s.holdEvent e (.armed (s.clock + s.hks.commandWindow))
  | .firstTap .firstUp _ => s.route e
  | .armed deadline => s.holdEvent e (.armed deadline)
  | .chordHeld i command argument => s.discardHold.fire i command argument
  | .idle => s.route e

/-- R24: the HKS takes a KEY BREAK. -/
def State.takeKeyBreak (p : DeskPortId) (usage : Byte) (s : State) : State :=
  if s.hks.swallowed.contains (p, usage) then
    s.setHks { s.hks with swallowed := s.hks.swallowed.filter (fun k => decide (k ≠ (p, usage))) }
  else if openMake p usage s.hks.hold then s.breakOfHeld p usage
  else s.routeBreak p usage

/-! ## Deadlines, detach, RESTART -/

/-- R37: the HKS is told that a desk port has detached. -/
def State.purgePort (p : DeskPortId) (s : State) : State :=
  let hold := s.hks.hold.filter (fun e => decide (e.port ≠ p))
  s.setHks { s.hks with
    hold := hold, swallowed := s.hks.swallowed.filter (fun k => decide (k.1 ≠ p)),
    seq := if hold = [] then .idle else s.hks.seq }

/-- R40: the HKS at RESTART. -/
def Hks.restarted (h : Hks) : Hks := { h.toIdle with swallowed := [] }

end Sys2Proof.Machine
end

