-- ==== Sys2Proof/Machine/Pointer.lean ====
section
/-! DEFINITION. Pointer.lean: what the Pointer Unit does with each event (R82, R83, R92 to R95), the keeping of the pointer on
a placed screen (R97), and the path of every event the DIU hands on (R11). -/

namespace Sys2Proof.Machine

/-! ## From a desk movement to the canvas -/

/-- R82: the scaled movement m of one axis and its new remainder, from the desk count d and the remainder f. -/
def scaleAxis (speed : Nat) (d f : Int) : Int × Int := ((d * speed + f).tdiv 16, (d * speed + f).tmod 16)

/-- R83: one axis kept on the placed screens: the position reached and the remainder, where `inside` says that the point
reached lies in a placed screen, and otherwise clamped to an extent, the remainder becoming 0. -/
def stepAxis (inside : Bool) (q : Int) (origin extent : Nat) (f : Int) : Nat × Int :=
  if inside then (q.toNat, f) else ((clampInt origin (origin + extent - 1) q).toNat, 0)

/-- R83: the horizontal step. -/
def State.stepX (s : State) (qx : Int) (fx : Int) : Nat × Int :=
  let c := s.lco.screens[s.pointerScreen].rect
  stepAxis (s.lco.screenAt qx s.ptu.py).isSome qx c.x c.w fx

/-- R83: the vertical step, from the screen C′ that holds the new x at the old y. -/
def State.stepY (s : State) (x : Nat) (qy : Int) (fy : Int) : Nat × Int :=
  let c := s.lco.screens[(s.lco.screenAt x s.ptu.py).getD s.pointerScreen].rect
  stepAxis (s.lco.screenAt x qy).isSome qy c.y c.h fy

/-- R82, R83: the pointer record after a movement. -/
def State.moved (s : State) (dx dy : Int) : Ptu :=
  let (mx, fx) := scaleAxis s.ptu.speed dx s.ptu.fx
  let (my, fy) := scaleAxis s.ptu.speed dy s.ptu.fy
  let (x, fx) := s.stepX (s.ptu.px + mx) fx
  let (y, fy) := s.stepY x (s.ptu.py + my) fy
  { s.ptu with px := x, py := y, fx := fx, fy := fy }

/-! ## Reports to the focus computer -/

/-- R91: the report position of the focus computer. -/
def State.reportPosition (s : State) : Nat × Nat :=
  match (s.comp s.fcu.focus).lastPointer with
  | some p => (p.ax, p.ay)
  | none =>
    match s.ptu.hit with
    | some hit => if hit.target = s.fcu.focus then (hit.ax, hit.ay) else (16384, 16384)
    | none => (16384, 16384)

/-- R93 to R95: the focus computer is handed the delivered button set at its report position with a wheel amount. -/
def State.reportToFocus (wheel : Int) (s : State) : State :=
  s.handPointer s.fcu.focus
    { buttons := s.deliveredButtons, ax := s.reportPosition.1, ay := s.reportPosition.2 } wheel

/-- R92: the motion report, where the hit target is the focus computer. -/
def State.motionReport (s : State) : State :=
  match s.ptu.hit with
  | some hit =>
    if hit.target = s.fcu.focus then
      s.handPointer s.fcu.focus { buttons := s.deliveredButtons, ax := hit.ax, ay := hit.ay } 0
    else s
  | none => s

/-- R83, R88, R92: a MOTION. The re-evaluation's request, if it makes one, names a computer that is not the focus computer,
so it makes no motion report. -/
def State.takeMotion (dx dy : Int) (s : State) : State :=
  let s := s.setPtu (s.moved dx dy)
  if s.makeHitTest.hitComputer = some s.fcu.focus then s.reevaluate.motionReport else s.reevaluate

/-! ## Buttons and wheel -/

/-- A stale mark set or removed (R93, R94, R96). -/
def Ptu.unmark (p : DeskPortId) (b : Fin 5) (ptu : Ptu) : Ptu :=
  { ptu with stale := ptu.stale.set p (ptu.stale[p] &&& ~~~ (1#5 <<< b.val)) }

/-- R93 step 2: click-to-focus. -/
def State.clickToFocus (p : DeskPortId) (b : Fin 5) (s : State) : State :=
  match s.fcu.pending with
  | some pending =>
    let s := s.requestFocus pending.target .glide false
    s.setPtu (s.ptu.unmark p b)
  | none => s

/-- R93: a BUTTON MAKE. -/
def State.takeButtonMake (p : DeskPortId) (b : Fin 5) (s : State) : State :=
  let s := (s.setPtu (s.ptu.unmark p b)).clickToFocus p b
  let s := (s.reportToFocus 0).setSoft
  match (s.comp s.fcu.focus).port with
  | .suspended => s.inputWake State.reevaluate s.fcu.focus
  | .resuming => s.inputWake State.reevaluate s.fcu.focus
  | _ => s

/-- R73, R94: the end of a break: with no desk button held, SOFT clears. -/
def State.afterButtonBreak (s : State) : State := if s.deskButtons = 0 then s.clearSoft else s

/-- R94: a BUTTON BREAK. A marked one loses its mark and is discarded. -/
def State.takeButtonBreak (p : DeskPortId) (b : Fin 5) (s : State) : State :=
  if s.ptu.stale[p].getLsbD b.val then (s.setPtu (s.ptu.unmark p b)).afterButtonBreak
  else (s.reportToFocus 0).afterButtonBreak

/-! ## The pointer on a placed screen -/

/-- The pointer at the centre of the lowest-indexed placed screen, its remainders 0 (R97, R99). -/
def State.recentre (s : State) : State :=
  let c := s.lco.screens[s.lco.lowestPlaced].rect.centre
  s.setPtu { s.ptu with px := c.1, py := c.2, fx := 0, fy := 0 }

/-- R97: the pointer is kept where it still lies in a placed screen, and otherwise recentred. -/
def State.keepPointer (s : State) : State := if (s.lco.screenAt s.ptu.px s.ptu.py).isSome then s else s.recentre

/-- R97: after a PLACE SCREEN the pointer is kept on a placed screen, and a re-evaluation is made. -/
def State.keepPlaced (s : State) : State := s.keepPointer.reevaluate

/-! ## The path of an event -/

/-- R11: where an event that the gate passes goes. -/
def State.deliver (e : DeskEvent) (s : State) : State :=
  match e with
  | .keyMake p u => s.takeKeyMake p u
  | .keyBreak p u => s.takeKeyBreak p u
  | .buttonMake p b => s.takeButtonMake p b
  | .buttonBreak p b => s.takeButtonBreak p b
  | .motion _ dx dy => s.takeMotion dx dy
  | .wheel _ amount => s.reportToFocus amount

/-- R11: the DIU hands an event on, first to the gate. -/
def State.handOn (e : DeskEvent) (s : State) : State :=
  match s.gate e with
  | (s', true) => s'.deliver e
  | (s', false) => s'

end Sys2Proof.Machine
end

