-- ==== Sys2Proof/Machine/Operands.lean ====
section
/-! DEFINITION. Operands.lean: the operands the commands carry as bytes: the reduced desk reports (R6, R9) and the request
payloads (11_control_link.md, Requests; R186), read into fields, and the fields written back as the bytes the READ
requests return. -/

namespace Sys2Proof.Machine

/-! ## Desk reports -/

/-- R6: a reduced keyboard report. -/
structure KeyReport where
  mods : Byte
  keys : List Byte
deriving DecidableEq, Repr

/-- R6: a slot that makes the report an error report. -/
def isErrorSlot (u : Byte) : Bool := decide (1 ≤ u) && decide (u ≤ 3)

/-- R6: the reduction of a keyboard report; none where the report is ignored. -/
def reduceKeys : List Byte → Option KeyReport
  | mods :: _ :: k0 :: k1 :: k2 :: k3 :: k4 :: k5 :: _ =>
    let slots := [k0, k1, k2, k3, k4, k5]
    if slots.any isErrorSlot then none
    else some { mods := mods, keys := (slots.filter (fun u => decide (u ≠ 0) && !isModifier u)).eraseDups }
  | _ => none

/-- R9: a reduced pointer report. -/
structure MoveReport where
  buttons : Buttons
  dx : Int
  dy : Int
  wheel : Int
deriving DecidableEq, Repr

/-- R9: a signed count, −128 taken as −127. -/
def deskCount (b : Byte) : Int := max (-127) b.toInt

/-- R9: the reduction of a pointer report; none where the report is ignored. -/
def reduceMove : List Byte → Option MoveReport
  | b :: x :: y :: w :: _ =>
    some { buttons := b.setWidth 5, dx := deskCount x, dy := deskCount y, wheel := deskCount w }
  | [b, x, y] => some { buttons := b.setWidth 5, dx := deskCount x, dy := deskCount y, wheel := 0 }
  | _ => none

/-! ## Fields of a payload -/

/-- Byte i of a payload. -/
def at8 (p : List Byte) (i : Nat) : Byte := p.getD i 0

/-- The two-byte field at i of a payload. -/
def at16 (p : List Byte) (i : Nat) : Nat := u16 (at8 p i) (at8 p (i + 1))

/-- An index below n, where a byte holds one. -/
def index (n : Nat) (b : Byte) : Option (Fin n) := if h : b.toNat < n then some ⟨b.toNat, h⟩ else none

/-- An index below n, or absent for 0xFF; none for any other byte. -/
def indexOrAbsent (n : Nat) (b : Byte) : Option (Option (Fin n)) :=
  if b = 0xFF then some none else (index n b).map some

/-- A flag byte; none where it is neither 0 nor 1. -/
def flag (b : Byte) : Option Bool := if b = 0 then some false else if b = 1 then some true else none

/-- A chain start or next field: 0 to 255, or 0xFFFF; none for any other number. -/
def startOf (n : Nat) : Option (Option TileId) :=
  if n = 0xFFFF then some none else if h : n < 256 then some (some ⟨n, h⟩) else none

/-- Three bytes of colour at i of a payload. -/
def colourAt (p : List Byte) (i : Nat) : Colour := { red := at8 p i, green := at8 p (i + 1), blue := at8 p (i + 2) }

/-- Four two-byte fields at i of a payload. -/
def rectAt (p : List Byte) (i : Nat) : Rect :=
  { x := at16 p i, y := at16 p (i + 2), w := at16 p (i + 4), h := at16 p (i + 6) }

/-- A rectangle as four two-byte fields. -/
def Rect.bytes (r : Rect) : List Byte := le16 r.x ++ le16 r.y ++ le16 r.w ++ le16 r.h

/-- A condition byte (R18, R42). -/
def condOf (b : Byte) : Option Cond :=
  if b = 0 then some .any else if b = 1 then some .required else if b = 2 then some .absent else none

/-- Four condition bytes at i of a payload (R18, R42). -/
def modCondAt (p : List Byte) (i : Nat) : Option ModCond :=
  match condOf (at8 p i), condOf (at8 p (i + 1)), condOf (at8 p (i + 2)), condOf (at8 p (i + 3)) with
  | some c, some s, some a, some g => some { ctrl := c, shift := s, alt := a, gui := g }
  | _, _, _, _ => none

/-! ## Hotkey entries (R18) -/

/-- A trigger kind byte. -/
def triggerOf (b : Byte) : Option TriggerKind :=
  if b = 0 then some .chordMake else if b = 1 then some .chordBreak else if b = 2 then some .sequence else none

/-- R38: a command code. -/
def commandOf (b : Byte) : Option Command :=
  [Command.select, .selectNext, .selectPrev, .preset, .presetNext, .flip, .lock, .unlock, .lockToggle, .wake, .wakeFocus,
    .deskSleep, .hostCode].find? (fun c => decide (c.code = b))

/-- R38: how many arguments a command has: 0 up to this number less one. -/
def Command.arguments : Command → Nat
  | .select => 8
  | .preset => 16
  | .flip => 256
  | .wake => 8
  | .hostCode => 256
  | .selectNext => 1
  | .selectPrev => 1
  | .presetNext => 1
  | .lock => 1
  | .unlock => 1
  | .lockToggle => 1
  | .wakeFocus => 1
  | .deskSleep => 1

/-- R18: the checks of WRITE HOTKEY, in order: the entry index and the entry, or the status of the first that fails. -/
def parseHotkey (p : List Byte) : Except Status (Fin 24 × HotkeyEntry) :=
  if p.length ≠ 10 then .error .badLength
  else match index 24 (at8 p 0) with
    | none => .error .badIndex
    | some i =>
      match flag (at8 p 1), triggerOf (at8 p 2), modCondAt p 4 with
      | some enabled, some kind, some cond =>
        if at8 p 3 < 4 then .error .badValue
        else if kind = .sequence ∧ isModifier (at8 p 3) then .error .badValue
        else match commandOf (at8 p 8) with
          | none => .error .badValue
          | some command =>
            if (at8 p 9).toNat < command.arguments then
              .ok (i, { enabled := enabled, kind := kind, usage := at8 p 3, cond := cond, command := command,
                        argument := at8 p 9 })
            else .error .badValue
      | _, _, _ => .error .badValue

/-- R18: the ten bytes of an entry, as they would be written. -/
def HotkeyEntry.bytes (i : Fin 24) (e : HotkeyEntry) : List Byte :=
  [byte i.val, flagByte e.enabled, e.kind.code, e.usage] ++ e.cond.bytes ++ [e.command.code, e.argument]

/-! ## Route rules (R42) -/

/-- R42: the checks of WRITE RULE, in order. -/
def parseRule (p : List Byte) : Except Status (Fin 32 × RouteRule) :=
  if p.length ≠ 11 then .error .badLength
  else match index 32 (at8 p 0) with
    | none => .error .badIndex
    | some i =>
      match flag (at8 p 1), flag (at8 p 9), modCondAt p 5 with
      | some enabled, some includeFocus, some cond =>
        if 0x0F < at8 p 2 then .error .badValue
        else if at8 p 4 < at8 p 3 then .error .badValue
        else .ok (i, { enabled := enabled, ports := (at8 p 2).setWidth 4, low := at8 p 3, high := at8 p 4, cond := cond,
                       includeFocus := includeFocus, fixed := at8 p 10 })
      | _, _, _ => .error .badValue

/-- R42: the eleven bytes of a rule, as they would be written. -/
def RouteRule.bytes (i : Fin 32) (r : RouteRule) : List Byte :=
  [byte i.val, flagByte r.enabled, r.ports.setWidth 8, r.low, r.high] ++ r.cond.bytes ++ [flagByte r.includeFocus, r.fixed]

/-! ## Tiles (R128, R186) -/

/-- R186: the length a WRITE TILE payload takes, from its kind byte and, for a GRID, the columns and rows bytes as given. -/
def tileLength (p : List Byte) : Option Nat :=
  if at8 p 1 = 0 then some 25
  else if at8 p 1 = 1 then some (15 + (at8 p 12).toNat * (at8 p 13).toNat)
  else if at8 p 1 = 2 then some 15
  else none

/-- A crop's or whole view from a SINGLE payload (R128, R186): for WHOLE the crop fields are not checked. -/
def viewOf (p : List Byte) : Option View :=
  if at8 p 15 = 0 then some .whole
  else if at8 p 15 = 1 then
    let r := rectAt p 16
    if 1 ≤ r.w ∧ 1 ≤ r.h ∧ r.x + r.w ≤ 2560 ∧ r.y + r.h ≤ 1600 then some (.crop r) else none
  else none

/-- A showing byte (R186); ALTERNATE needs an alternate head (R128). -/
def showingOf (alternate : Option HeadId) (b : Byte) : Option Showing :=
  if b = 0 then some .primary else if b = 1 ∧ alternate.isSome then some .alternate else none

/-- R128: a border width. -/
def borderOf (b : Byte) : Option Nat := if b.toNat ≤ 8 then some b.toNat else none

/-- R128, R186: the fields of a SINGLE payload. -/
def parseSingle (p : List Byte) : Option TileKind :=
  match index 16 (at8 p 12), indexOrAbsent 16 (at8 p 13) with
  | some primary, some alternate =>
    match showingOf alternate (at8 p 14), viewOf p, borderOf (at8 p 24) with
    | some showing, some view, some border => some (.single primary alternate showing false view border)
    | _, _, _ => none
  | _, _ => none

/-- R128, R186: the fields of a GRID payload. -/
def parseGrid (p : List Byte) (rect : Rect) : Option TileKind :=
  let columns := (at8 p 12).toNat
  let rows := (at8 p 13).toNat
  if 1 ≤ columns ∧ columns ≤ 4 ∧ 1 ≤ rows ∧ rows ≤ 4 ∧ columns ≤ rect.w ∧ rows ≤ rect.h then
    match (p.drop 15).mapM (indexOrAbsent 16), borderOf (at8 p 14) with
    | some cells, some border => some (.grid columns rows cells border)
    | _, _ => none
  else none

/-- R128, R186: the fields that depend on the kind. -/
def parseTileKind (p : List Byte) (rect : Rect) : Option TileKind :=
  if at8 p 1 = 0 then parseSingle p
  else if at8 p 1 = 1 then parseGrid p rect
  else some (.fill (colourAt p 12))

/-- R128: a destination rectangle that a record may hold. -/
def Rect.writable (r : Rect) : Bool :=
  decide (1 ≤ r.w) && decide (1 ≤ r.h) && decide (r.x + r.w ≤ 2560) && decide (r.y + r.h ≤ 1600)

/-- R128: the checks of WRITE TILE but the last, in order: the record and its fields. -/
def parseTile (p : List Byte) : Except Status (TileId × Tile) :=
  if tileLength p ≠ some p.length then .error .badLength
  else match startOf (at16 p 2) with
    | none => .error .badValue
    | some next =>
      let rect := rectAt p 4
      if rect.writable then
        match parseTileKind p rect with
        | some kind => .ok ((at8 p 0).toFin, { next := next, rect := rect, kind := kind })
        | none => .error .badValue
      else .error .badValue

/-- A head, or 0xFF (R186). -/
def headByte : Option HeadId → Byte
  | some h => byte h.val
  | none => 0xFF

/-- R186: the view's byte and its four crop fields, 0 for WHOLE. -/
def View.bytes : View → List Byte
  | .whole => 0 :: (Rect.bytes { x := 0, y := 0, w := 0, h := 0 })
  | .crop r => 1 :: r.bytes

/-- R186: a record's fields in the layout of WRITE TILE, from the kind byte on, followed by the flip-pending flag. -/
def Tile.bytes (t : Tile) : List Byte :=
  match t.kind with
  | .single p a showing flipPending v b =>
    0 :: startField t.next ++ t.rect.bytes ++ [byte p.val, headByte a, showing.code] ++ v.bytes ++ [byte b, flagByte flipPending]
  | .grid c r cells b =>
    1 :: startField t.next ++ t.rect.bytes ++ [byte c, byte r, byte b] ++ cells.map headByte ++ [0]
  | .fill colour => 2 :: startField t.next ++ t.rect.bytes ++ colour.bytes ++ [0]

/-! ## Presets (R142) -/

/-- A screen entry: 0xFFFE for KEEP (R142). -/
def presetEntryOf (n : Nat) : Option PresetEntry :=
  if n = 0xFFFE then some .keep else (startOf n).map .chain

/-- R142. -/
def PresetEntry.bytes : PresetEntry → List Byte
  | .keep => le16 0xFFFE
  | .chain start => startField start

/-- R142: the checks of WRITE PRESET, in order: the preset, and the record or EMPTY. -/
def parsePreset (p : List Byte) : Except Status (PresetId × Option Preset) :=
  if p.length ≠ 1 ∧ p.length ≠ 19 then .error .badLength
  else match index 16 (at8 p 0) with
    | none => .error .badIndex
    | some n =>
      if p.length = 1 then .ok (n, none)
      else
        match presetEntryOf (at16 p 1), presetEntryOf (at16 p 3), presetEntryOf (at16 p 5), presetEntryOf (at16 p 7),
          presetEntryOf (at16 p 9), presetEntryOf (at16 p 11), presetEntryOf (at16 p 13), presetEntryOf (at16 p 15),
          indexOrAbsent 8 (at8 p 17), indexOrAbsent 16 (at8 p 18) with
        | some e0, some e1, some e2, some e3, some e4, some e5, some e6, some e7, some focus, some next =>
          .ok (n, some { screens := #v[e0, e1, e2, e3, e4, e5, e6, e7], focus := focus, next := next })
        | _, _, _, _, _, _, _, _, _, _ => .error .badValue

/-- A preset, or 0xFF when absent (R142). -/
def presetByte : Option PresetId → Byte
  | some n => byte n.val
  | none => 0xFF

/-- R142: the eighteen bytes after the preset number. -/
def Preset.bytes (p : Preset) : List Byte :=
  p.screens.toList.flatMap PresetEntry.bytes ++ [compByte p.focus, presetByte p.next]

end Sys2Proof.Machine
end

