-- ==== Sys2Proof/Machine/Desk.lean ====
section
/-! DEFINITION. Desk.lean: the Desk Input Unit: the desk ports, the events of their reports, and the breaks made on detach
(R1 to R13). -/

namespace Sys2Proof.Machine

/-! ## The port records -/

/-- The state with a desk port record replaced. -/
def State.setDeskPort (p : DeskPortId) (d : DeskPort) (s : State) : State := { s with diu := s.diu.set p d }

/-- R5: a desk port changes its state, and a DESK PORT notice is sent. -/
def State.enterDesk (p : DeskPortId) (d : DeskPort) (s : State) : State :=
  (s.setDeskPort p d).notify (.deskPort p d)

/-- The modifiers of a set, in ascending usage order (R7). -/
def modifierList (mods : Byte) : List Byte :=
  ([0, 1, 2, 3, 4, 5, 6, 7].filter (fun i => mods.getLsbD i)).map (fun i => 0xE0 + byte i)

/-- The buttons of a set, in ascending number (R10). -/
def buttonList (buttons : Buttons) : List (Fin 5) := [(0 : Fin 5), 1, 2, 3, 4].filter (fun b => buttons.getLsbD b.val)

/-! ## The previous report, one event at a time (R8, R10) -/

/-- R8: the previous report without a usage. -/
def DeskPort.release (u : Byte) : DeskPort → DeskPort
  | .keyboard mods keys =>
    if isModifier u then .keyboard (mods &&& ~~~ modifierBit u) keys else .keyboard mods (keys.filter (fun k => decide (k ≠ u)))
  | d => d

/-- R8: a key list with a usage added in the slot that a list of slots gives it. -/
def addInSlot (slots : List Byte) (u : Byte) (keys : List Byte) : List Byte :=
  keys.take (slots.idxOf u) ++ u :: keys.drop (slots.idxOf u)

/-- R8: the previous report with a usage: a key in the slot the new report's key list gives it, among the keys there are
(assumption log 17), a modifier in the modifier set. -/
def DeskPort.press (slots : List Byte) (u : Byte) : DeskPort → DeskPort
  | .keyboard mods keys =>
    if isModifier u then .keyboard (mods ||| modifierBit u) keys else .keyboard mods (addInSlot slots u keys)
  | d => d

/-- R10: the previous report without a button. -/
def DeskPort.releaseButton (b : Fin 5) : DeskPort → DeskPort
  | .pointer buttons => .pointer (buttons &&& ~~~ (1#5 <<< b.val))
  | d => d

/-- R10: the previous report with a button. -/
def DeskPort.pressButton (b : Fin 5) : DeskPort → DeskPort
  | .pointer buttons => .pointer (buttons ||| (1#5 <<< b.val))
  | d => d

/-! ## Handing events on -/

/-- R7, R8: a KEY BREAK is handed on; blocks that take it see the previous report without the key. -/
def State.keyBreak (p : DeskPortId) (s : State) (u : Byte) : State :=
  (s.setDeskPort p (s.diu[p].release u)).handOn (.keyBreak p u)

/-- R7, R8: a KEY MAKE of a report with these key slots is handed on; blocks that take it see the previous report with the
key. -/
def State.keyMake (p : DeskPortId) (slots : List Byte) (s : State) (u : Byte) : State :=
  (s.setDeskPort p (s.diu[p].press slots u)).handOn (.keyMake p u)

/-- R10: a BUTTON BREAK is handed on. -/
def State.buttonBreak (p : DeskPortId) (s : State) (b : Fin 5) : State :=
  (s.setDeskPort p (s.diu[p].releaseButton b)).handOn (.buttonBreak p b)

/-- R10: a BUTTON MAKE is handed on. -/
def State.buttonMake (p : DeskPortId) (s : State) (b : Fin 5) : State :=
  (s.setDeskPort p (s.diu[p].pressButton b)).handOn (.buttonMake p b)

/-- R7: the events of a reduced keyboard report, in their four groups, and the previous report made equal to it (R8). -/
def State.takeKeyReport (p : DeskPortId) (mods : Byte) (keys : List Byte) (r : KeyReport) (s : State) : State :=
  let s := (keys.filter (fun u => !r.keys.contains u)).foldl (State.keyBreak p) s
  let s := (modifierList (mods &&& ~~~ r.mods)).foldl (State.keyBreak p) s
  let s := (modifierList (r.mods &&& ~~~ mods)).foldl (State.keyMake p r.keys) s
  let s := (r.keys.filter (fun u => !keys.contains u)).foldl (State.keyMake p r.keys) s
  s.setDeskPort p (.keyboard r.mods r.keys)

/-- R10: the events of a reduced pointer report, in order. -/
def State.takeMoveReport (p : DeskPortId) (buttons : Buttons) (r : MoveReport) (s : State) : State :=
  let s := if r.dx = 0 ∧ r.dy = 0 then s else s.handOn (.motion p r.dx r.dy)
  let s := (buttonList (buttons &&& ~~~ r.buttons)).foldl (State.buttonBreak p) s
  let s := (buttonList (r.buttons &&& ~~~ buttons)).foldl (State.buttonMake p) s
  if r.wheel = 0 then s else s.handOn (.wheel p r.wheel)

/-! ## The commands -/

/-- R2: DEVICE_ATTACH. -/
def State.attachDevice (p : DeskPortId) (s : State) : State :=
  match s.diu[p] with
  | .empty => s.enterDesk p (.enumerating (s.clock + 1000))
  | _ => s

/-- R3: the state a device's interfaces lead to. -/
def portOffered (o : Offers) : DeskPort :=
  if o.bootKeyboard then .keyboard 0 []
  else if o.bootPointer then .pointer 0
  else if o.hub then .unsupported .hub
  else .unsupported .notBoot

/-- R3: ENUMERATION_END. -/
def State.endEnumeration (p : DeskPortId) (o : Offers) (s : State) : State :=
  match s.diu[p] with
  | .enumerating _ => s.enterDesk p (portOffered o)
  | _ => s

/-- R3: ENUMERATION_DEADLINE_EXPIRY. -/
def State.expireEnumeration (p : DeskPortId) (s : State) : State :=
  match s.diu[p] with
  | .enumerating deadline => if s.due deadline then s.enterDesk p (.unsupported .noResponse) else s
  | _ => s

/-- R12: the breaks made on detach. -/
def State.synthesiseBreaks (p : DeskPortId) (s : State) : State :=
  match s.diu[p] with
  | .keyboard mods keys => (modifierList mods).foldl (State.keyBreak p) (keys.foldl (State.keyBreak p) s)
  | .pointer buttons => (buttonList buttons).foldl (State.buttonBreak p) s
  | _ => s

/-- R4: DEVICE_DETACH. An EMPTY port has no device to detach. -/
def State.detachDevice (p : DeskPortId) (s : State) : State :=
  match s.diu[p] with
  | .empty => s
  | _ => ((s.synthesiseBreaks p).enterDesk p .empty).purgePort p

/-- R6, R7: KEYBOARD_REPORT. -/
def State.keyboardReport (p : DeskPortId) (bytes : List Byte) (s : State) : State :=
  match s.diu[p], reduceKeys bytes with
  | .keyboard mods keys, some r => s.takeKeyReport p mods keys r
  | _, _ => s

/-- R9, R10: POINTER_REPORT. -/
def State.pointerReport (p : DeskPortId) (bytes : List Byte) (s : State) : State :=
  match s.diu[p], reduceMove bytes with
  | .pointer buttons, some r => s.takeMoveReport p buttons r
  | _, _ => s

/-- DEVICE_ATTACH (R2). -/
def execDeviceAttach (t : Time) (p : DeskPortId) (s : State) : Host.Outcome State Fault Refusal :=
  .next ((s.at t).attachDevice p)

/-- ENUMERATION_END (R3). -/
def execEnumerationEnd (t : Time) (p : DeskPortId) (offers : Offers) (s : State) : Host.Outcome State Fault Refusal :=
  .next ((s.at t).endEnumeration p offers)

/-- ENUMERATION_DEADLINE_EXPIRY (R3). -/
def execEnumerationDeadlineExpiry (t : Time) (p : DeskPortId) (s : State) : Host.Outcome State Fault Refusal :=
  .next ((s.at t).expireEnumeration p)

/-- DEVICE_DETACH (R4, R12, R37). -/
def execDeviceDetach (t : Time) (p : DeskPortId) (s : State) : Host.Outcome State Fault Refusal :=
  .next ((s.at t).detachDevice p)

/-- KEYBOARD_REPORT (R6 to R8). -/
def execKeyboardReport (t : Time) (p : DeskPortId) (bytes : List Byte) (s : State) : Host.Outcome State Fault Refusal :=
  .next ((s.at t).keyboardReport p bytes)

/-- POINTER_REPORT (R9, R10). -/
def execPointerReport (t : Time) (p : DeskPortId) (bytes : List Byte) (s : State) : Host.Outcome State Fault Refusal :=
  .next ((s.at t).pointerReport p bytes)

/-! ## The deadlines of the hotkeys and of focus -/

/-- R31: TAP_DEADLINE_EXPIRY. -/
def State.expireTap (s : State) : State :=
  match s.hks.seq with
  | .firstTap _ deadline => if s.due deadline then s.releaseHold else s
  | _ => s

/-- R35: COMMAND_DEADLINE_EXPIRY: the HOTKEY notice carries 0xFF, TIMEOUT, 0 and 0 (R39). -/
def State.expireCommand (s : State) : State :=
  match s.hks.seq with
  | .armed deadline => if s.due deadline then s.discardHold.notify (.hotkey 0xFF 3 0 0) else s
  | _ => s

/-- R70: GUARD_DEADLINE_EXPIRY. -/
def State.expireGuard (s : State) : State :=
  match s.fcu.guard with
  | some deadline => if s.due deadline then (s.setFcu { s.fcu with guard := none }).reevaluate else s
  | none => s

/-- R71: the GLIDE request of a dwell deadline that has expired. One that R59 does not grant leaves no pending target, for
the deadline is cleared (assumption log 19). -/
def State.takeGlide (target : Comp) (s : State) : State :=
  match s.fcu.judge target .glide false with
  | .done => s.requestFocus target .glide false
  | .refusedLocked => s.setFcu { s.fcu with pending := none }
  | .ignored => s.setFcu { s.fcu with pending := none }

/-- R71: DWELL_DEADLINE_EXPIRY. -/
def State.expireDwell (s : State) : State :=
  match s.fcu.pending with
  | some p => if s.due p.deadline then s.takeGlide p.target else s
  | none => s

/-- TAP_DEADLINE_EXPIRY (R31). -/
def execTapDeadlineExpiry (t : Time) (s : State) : Host.Outcome State Fault Refusal := .next (s.at t).expireTap

/-- COMMAND_DEADLINE_EXPIRY (R35). -/
def execCommandDeadlineExpiry (t : Time) (s : State) : Host.Outcome State Fault Refusal := .next (s.at t).expireCommand

/-- GUARD_DEADLINE_EXPIRY (R70). -/
def execGuardDeadlineExpiry (t : Time) (s : State) : Host.Outcome State Fault Refusal := .next (s.at t).expireGuard

/-- DWELL_DEADLINE_EXPIRY (R71). -/
def execDwellDeadlineExpiry (t : Time) (s : State) : Host.Outcome State Fault Refusal := .next (s.at t).expireDwell

end Sys2Proof.Machine
end

