-- ==== Sys2Proof/Machine/ComputerBus.lean ====
section
/-! DEFINITION. ComputerBus.lean: the commands that reach a computer port from its computer: bus power, reset, descriptors,
configuration, idle, resume, remote wake, polls (R102 to R108, R112), and the wake attempt's deadline (R107, R154). -/

namespace Sys2Proof.Machine

/-- The state with what port c last answered its computer (log 14). -/
def State.answer (c : Comp) (a : BusAnswer) (s : State) : State := s.setComp c { s.comp c with answer := a }

/-- The state with the bus address of port c (R104). -/
def State.setAddress (c : Comp) (a : BitVec 7) (s : State) : State := s.setComp c { s.comp c with address := a }

/-- A change of port state by an event of the port (R102). -/
def State.portEvent (c : Comp) (new : PortState) (s : State) : State := s.changePort State.reevaluate c new

/-- R103: bus power present. -/
def State.powerPresent (c : Comp) (s : State) : State :=
  match (s.comp c).port with
  | .detached => s.portEvent c .powered
  | _ => s

/-- R103: bus power lost. The bus address is the default again (assumption log 12). -/
def State.powerLost (c : Comp) (s : State) : State :=
  match (s.comp c).port with
  | .detached => s
  | _ => (s.setAddress c 0).portEvent c .detached

/-- R104: a bus reset. The bus address is the default again (assumption log 12). -/
def State.resetBus (c : Comp) (s : State) : State :=
  match (s.comp c).port with
  | .detached => s
  | _ => (s.setAddress c 0).portEvent c .default

/-- R104: what the rule states of a descriptor. -/
def descriptorFacts : DescriptorKind → DescriptorFacts
  | .device => .device
  | .configuration => .configuration 1 1 true
  | .report => .report 1 2 3 0 32767

/-- R104: a descriptor is answered; its bytes are a free value (assumption log 13). -/
def State.answerDescriptor (c : Comp) (which : DescriptorKind) (s : State) : State :=
  s.answer c (.descriptor (descriptorFacts which) (Config.descriptorBytes which))

/-- R104: a descriptor request. In CONFIGURED the spec is silent and a free value decides (assumption log 13); in any other
state no request reaches the port (R103, R107). -/
def State.askDescriptor (c : Comp) (which : DescriptorKind) (s : State) : State :=
  match (s.comp c).port with
  | .default => s.answerDescriptor c which
  | .configured => if Config.configuredAnswersDescriptors then s.answerDescriptor c which else s
  | _ => s

/-- R104: an address assigned. In CONFIGURED the spec is silent and a free value decides (assumption log 13). -/
def State.assignAddress (c : Comp) (a : BitVec 7) (s : State) : State :=
  match (s.comp c).port with
  | .default => s.setAddress c a
  | .configured => if Config.configuredTakesAddress then s.setAddress c a else s
  | _ => s

/-- R105: configuration 1 selected. -/
def State.selectConfiguration1 (c : Comp) (s : State) : State :=
  match (s.comp c).port with
  | .default => (s.answer c .acknowledged).portEvent c .configured
  | .configured => s.answer c .acknowledged
  | _ => s

/-- R105: a configuration number selected: 1, 0, or any other, which is stalled. -/
def State.selectConfiguration (c : Comp) (number : Byte) (s : State) : State :=
  if number = 1 then s.selectConfiguration1 c
  else
    match (s.comp c).port with
    | .default => s.answer c (if number = 0 then .acknowledged else .stall)
    | .configured =>
      if number = 0 then (s.answer c .acknowledged).portEvent c .default else s.answer c .stall
    | _ => s

/-- R106: bus idle. -/
def State.idleBus (c : Comp) (s : State) : State :=
  match (s.comp c).port with
  | .configured => s.portEvent c .suspended
  | _ => s

/-- R106, R107: the computer resumes the bus itself. -/
def State.resumeBus (c : Comp) (s : State) : State :=
  match (s.comp c).port with
  | .suspended => s.portEvent c .configured
  | .resuming => s.portEvent c .configured
  | _ => s

/-- R107: a resume completes. -/
def State.completeResume (c : Comp) (s : State) : State :=
  match (s.comp c).port with
  | .resuming => s.portEvent c .configured
  | _ => s

/-- R108: the computer sets or clears the remote-wake permission: taken in CONFIGURED, stalled in DEFAULT. -/
def State.permitWake (c : Comp) (allowed : Bool) (s : State) : State :=
  match (s.comp c).port with
  | .configured => s.setComp c { s.comp c with remoteWake := allowed, answer := .acknowledged }
  | .default => s.answer c .stall
  | _ => s

/-- R107, R154: a wake attempt's deadline expires on its RESUMING port. -/
def State.expireWake (c : Comp) (s : State) : State :=
  match s.wpc.wakes[c], (s.comp c).port with
  | some a, .resuming =>
    if s.due a.deadline then (s.setComp c (s.comp c).timedOut).portEvent c .suspended else s
  | _, _ => s

/-- BUS_POWER_PRESENT (R103). -/
def execBusPowerPresent (t : Time) (c : Comp) (s : State) : Host.Outcome State Fault Refusal := .next ((s.at t).powerPresent c)

/-- BUS_POWER_LOST (R103). -/
def execBusPowerLost (t : Time) (c : Comp) (s : State) : Host.Outcome State Fault Refusal := .next ((s.at t).powerLost c)

/-- BUS_RESET (R104). -/
def execBusReset (t : Time) (c : Comp) (s : State) : Host.Outcome State Fault Refusal := .next ((s.at t).resetBus c)

/-- DESCRIPTOR_REQUEST (R104). -/
def execDescriptorRequest (t : Time) (c : Comp) (which : DescriptorKind) (s : State) : Host.Outcome State Fault Refusal :=
  .next ((s.at t).askDescriptor c which)

/-- ADDRESS_ASSIGNED (R104). -/
def execAddressAssigned (t : Time) (c : Comp) (address : BitVec 7) (s : State) : Host.Outcome State Fault Refusal :=
  .next ((s.at t).assignAddress c address)

/-- CONFIGURATION_1_SELECTED (R105). -/
def execConfiguration1Selected (t : Time) (c : Comp) (s : State) : Host.Outcome State Fault Refusal :=
  .next ((s.at t).selectConfiguration1 c)

/-- CONFIGURATION_0_SELECTED (R105). -/
def execConfiguration0Selected (t : Time) (c : Comp) (number : Byte) (s : State) : Host.Outcome State Fault Refusal :=
  .next ((s.at t).selectConfiguration c number)

/-- BUS_IDLE (R106). -/
def execBusIdle (t : Time) (c : Comp) (s : State) : Host.Outcome State Fault Refusal := .next ((s.at t).idleBus c)

/-- RESUME_BY_COMPUTER (R106). -/
def execResumeByComputer (t : Time) (c : Comp) (s : State) : Host.Outcome State Fault Refusal := .next ((s.at t).resumeBus c)

/-- RESUME_COMPLETES (R107). -/
def execResumeCompletes (t : Time) (c : Comp) (s : State) : Host.Outcome State Fault Refusal :=
  .next ((s.at t).completeResume c)

/-- SET_REMOTE_WAKE (R108). -/
def execSetRemoteWake (t : Time) (c : Comp) (s : State) : Host.Outcome State Fault Refusal := .next ((s.at t).permitWake c true)

/-- CLEAR_REMOTE_WAKE (R108). -/
def execClearRemoteWake (t : Time) (c : Comp) (s : State) : Host.Outcome State Fault Refusal :=
  .next ((s.at t).permitWake c false)

/-- POLL (R112, R116). -/
def execPoll (t : Time) (c : Comp) (acknowledged : Bool) (s : State) : Host.Outcome State Fault Refusal :=
  .next ((s.at t).setComp c ((s.at t).comp c |>.takePoll acknowledged))

/-- WAKE_ATTEMPT_DEADLINE_EXPIRY (R107, R154). -/
def execWakeAttemptDeadlineExpiry (t : Time) (c : Comp) (s : State) : Host.Outcome State Fault Refusal :=
  .next ((s.at t).expireWake c)

end Sys2Proof.Machine
end

