-- ==== Sys2Proof/Machine/Video.lean ====
section
/-! DEFINITION. Video.lean: the commands of the head receivers (R121) and the screen outputs (R133), and the desk's and the
screens' deadlines (R157, R162). -/

namespace Sys2Proof.Machine

/-- R121: a mode the part takes; one outside the ranges is treated as signal lost. -/
def modeSize (width height : Nat) : Option (Nat × Nat) :=
  if 640 ≤ width ∧ width ≤ 2560 ∧ 480 ≤ height ∧ height ≤ 1600 then some (width, height) else none

/-- R121: a head's signal and measured size become what its receiver reports. SOURCE CHANGE is queued on a difference, and
the WPC is told of a change between LIVE and NO SIGNAL. -/
def State.reportSignal (h : HeadId) (size : Option (Nat × Nat)) (s : State) : State :=
  let head := s.lco.heads[h]
  if head.size = size then s
  else
    let s := s.setLco { s.lco with heads := s.lco.heads.set h { head with size := size } }
    let s := s.notify (.sourceChange h size)
    if head.size.isSome = size.isSome then s else s.reevaluateScreens State.reevaluate

/-- R157: DESK_DEADLINE_EXPIRY. -/
def State.expireDesk (s : State) : State :=
  match s.wpc.desk, s.wpc.deskDeadline with
  | .sleepRequested, some deadline => if s.due deadline then s.enterAsleep State.reevaluate .timeout else s
  | _, _ => s

/-- R162: HOLD_DEADLINE_EXPIRY. -/
def State.expireHold (scr : ScreenId) (s : State) : State :=
  match s.power scr with
  | .darkHold deadline => if s.due deadline then s.enterStandby State.reevaluate scr false else s
  | _ => s

/-- SIGNAL_ACQUIRED (R121). -/
def execSignalAcquired (t : Time) (h : HeadId) (width height : Nat) (s : State) : Host.Outcome State Fault Refusal :=
  .next ((s.at t).reportSignal h (modeSize width height))

/-- MODE_CHANGED (R121). -/
def execModeChanged (t : Time) (h : HeadId) (width height : Nat) (s : State) : Host.Outcome State Fault Refusal :=
  .next ((s.at t).reportSignal h (modeSize width height))

/-- SIGNAL_LOST (R121). -/
def execSignalLost (t : Time) (h : HeadId) (s : State) : Host.Outcome State Fault Refusal := .next ((s.at t).reportSignal h none)

/-- FRAME_START (R133). -/
def execFrameStart (t : Time) (scr : ScreenId) (s : State) : Host.Outcome State Fault Refusal :=
  .next ((s.at t).frameStart State.reevaluate scr)

/-- DESK_DEADLINE_EXPIRY (R157). -/
def execDeskDeadlineExpiry (t : Time) (s : State) : Host.Outcome State Fault Refusal := .next (s.at t).expireDesk

/-- HOLD_DEADLINE_EXPIRY (R162). -/
def execHoldDeadlineExpiry (t : Time) (scr : ScreenId) (s : State) : Host.Outcome State Fault Refusal :=
  .next ((s.at t).expireHold scr)

end Sys2Proof.Machine
end

