-- ==== Sys2Proof/Machine/Panels.lean ====
section
/-! DEFINITION. Panels.lean: the commands of the panel bus: ticks, edges and completed transactions (R168 to R171). -/

namespace Sys2Proof.Machine

/-- The state with the PSC's records replaced. -/
def State.setPsc (p : Psc) (s : State) : State := { s with psc := p }

/-- R168: the record of a panel that a probe has found. -/
def Panel.found (address : Fin 4) : Panel :=
  { address := address, present := true, buttons := .replicate 8 .held, lastPattern := none, readDue := false,
    writeDue := true }

/-- R167, R168: a transaction on the bus when a scan starts is let finish. A probe of an earlier scan is none of this one's
(assumption log 21). -/
def BusTransaction.letFinish : BusTransaction → BusTransaction
  | .probe address => .earlierProbe address
  | transaction => transaction

/-- R168: the PSC at the start of a scan: the table is emptied, and the first probe waits for any transaction on the bus to
end. -/
def Psc.scanned (psc : Psc) : Psc :=
  { panels := [], scanner := .scanning 0, bus := some ((psc.bus.map BusTransaction.letFinish).getD (.probe 0)) }

/-- R168: a scan starts. -/
def State.startScan (s : State) : State := s.setPsc s.psc.scanned

/-- R172: the addresses found, bit 0 for 0x38. -/
def foundAddresses (panels : List Panel) : Byte := panels.foldl (fun acc p => acc ||| (1 <<< p.address.val)) 0

/-- R168: a probe of an address completes: an acknowledged one adds a record, the fourth ends the scan. -/
def State.endProbe (address : Fin 4) (acknowledged : Bool) (s : State) : State :=
  let panels := if acknowledged then s.psc.panels ++ [Panel.found address] else s.psc.panels
  let scanner : Scanner := if address = 3 then .idle else .scanning (address + 1)
  let s := s.setPsc { s.psc with panels := panels, scanner := scanner }
  let s := if address = 3 then s.notify (.scanDone panels.length (foundAddresses panels)) else s
  s.endTransaction

/-- R171: a panel is lost. -/
def Panel.lost (p : Panel) : Panel :=
  { p with present := false, readDue := false, writeDue := false, buttons := .replicate 8 .held }

/-- R171: a read or a write of panel n has not been acknowledged. -/
def State.losePanel (n : Nat) (write : Bool) (s : State) : State :=
  match s.psc.panels[n]? with
  | some p => (s.setPsc (s.psc.modifyPanel n Panel.lost)).notify (.panelLost n p.address write)
  | none => s

/-- R169: one button's state after a read of its line, and whether that is a press. -/
def ButtonState.read (pressed : Bool) : ButtonState → ButtonState × Bool
  | .released => if pressed then (.pressSeen, false) else (.released, false)
  | .pressSeen => if pressed then (.held, true) else (.released, false)
  | .held => if pressed then (.held, false) else (.released, false)

/-- R169: a press of button b on panel n: the focus request, then the PANEL notice. -/
def State.press (n : Nat) (s : State) (b : Fin 8) : State :=
  (s.requestFocus b .panel false).notify (.panelPress n b (s.fcu.judge b .panel false))

/-- R169: one button of panel n after an acknowledged read. A line is pressed while it is low. -/
def State.readButton (n : Nat) (low : Byte) (s : State) (b : Fin 8) : State :=
  match s.psc.panels[n]? with
  | none => s
  | some p =>
    let (state, press) := p.buttons[b].read (!low.getLsbD b.val)
    let s := s.setPsc (s.psc.modifyPanel n (fun p => { p with buttons := p.buttons.set b state }))
    if press then s.press n b else s

/-- R169: the button lines of a read of panel n, in ascending button number. -/
def State.readButtons (n : Nat) (low : Byte) (s : State) : State := allComps.foldl (State.readButton n low) s

/-- R168: a read or write on the bus when a scan started completes with no effect. -/
def State.scanning (s : State) : Bool := decide (s.psc.scanner ≠ .idle)

/-- R169, R171: a read of panel n completes. DESIGN CHOICE: its effects (button moves, presses with their focus changes) are taken
before the next waiting transaction starts, so a write that starts then carries the pattern after the presses; R167 gives them
no order (assumption log 29). -/
def State.endRead (n : Nat) (acknowledged : Bool) (low : Byte) (s : State) : State :=
  let s := if s.scanning then s else if acknowledged then s.readButtons n low else s.losePanel n false
  s.endTransaction

/-- R170: an acknowledged write of panel n: the pattern it carried to the high port is the last written, and write due is set
afresh where the pattern has changed while the write was on the bus (assumption log 11). -/
def State.wrotePanel (n : Nat) (carried : Byte) (changed : Bool) (s : State) : State :=
  s.setPsc (s.psc.modifyPanel n (fun p =>
    { p with lastPattern := some carried, writeDue := p.present && (changed || decide (s.pattern ≠ carried)) }))

/-- R170, R171: a write of panel n completes. DESIGN CHOICE: its record is written, and write due set afresh, before the next
waiting transaction starts (assumption log 29). -/
def State.endWrite (n : Nat) (carried : Byte) (changed acknowledged : Bool) (s : State) : State :=
  let s := if s.scanning then s else if acknowledged then s.wrotePanel n carried changed else s.losePanel n true
  s.endTransaction

/-- R169: a poll tick, every 10 ms from full reset (assumption log 26). While SCANNING it sets nothing. -/
def State.pollTick (s : State) : State :=
  if s.sinceReset % 10 = 0 ∧ s.psc.scanner = .idle then
    (s.setPsc { s.psc with panels := s.psc.panels.map (fun p => if p.present then { p with readDue := true } else p) }).startBus
  else s

/-- R170: a blink edge, every 250 ms from full reset while any LED blinks (assumption log 26). -/
def State.blinkEdge (s : State) : State := if s.sinceReset % 250 = 0 && s.anyBlink then s.deriveLeds else s

/-- POLL_TICK (R169). -/
def execPollTick (t : Time) (s : State) : Host.Outcome State Fault Refusal := .next (s.at t).pollTick

/-- BLINK_EDGE (R170). -/
def execBlinkEdge (t : Time) (s : State) : Host.Outcome State Fault Refusal := .next (s.at t).blinkEdge

/-- PROBE_COMPLETES (R168). A probe of an earlier scan ends with no effect but that the bus is free. -/
def execProbeCompletes (t : Time) (acknowledged : Bool) (s : State) : Host.Outcome State Fault Refusal :=
  .next (match s.psc.bus with
    | some (.probe address) => (s.at t).endProbe address acknowledged
    | some (.earlierProbe _) => (s.at t).endTransaction
    | _ => s.at t)

/-- PANEL_READ_COMPLETES (R169, R171). The high port byte carries nothing the part reads. -/
def execPanelReadCompletes (t : Time) (acknowledged : Bool) (low _high : Byte) (s : State) :
    Host.Outcome State Fault Refusal :=
  .next (match s.psc.bus with
    | some (.read n) => (s.at t).endRead n acknowledged low
    | _ => s.at t)

/-- PANEL_WRITE_COMPLETES (R170, R171). -/
def execPanelWriteCompletes (t : Time) (acknowledged : Bool) (s : State) : Host.Outcome State Fault Refusal :=
  .next (match s.psc.bus with
    | some (.write n _ carried changed) => (s.at t).endWrite n carried changed acknowledged
    | _ => s.at t)

end Sys2Proof.Machine
end

