-- ==== Sys2Proof/Machine/Link.lean ====
section
/-! DEFINITION. Link.lean: the Control Link Port: SPI transactions (R174 to R176, R180), the frame checks and replies that
every request goes through (R177 to R179), and a request of an unknown kind (R178). -/

namespace Sys2Proof.Machine

/-- The state with the CLP's records replaced. -/
def State.setClp (c : Clp) (s : State) : State := { s with clp := c }

/-! ## Transactions -/

/-- R174: the part takes a select: the link status byte is formed. No row of the table is the deselect of a transaction with
no opening byte, with another opening byte, or of a refused PUT already ignored, so a select ends those (assumption
log 25). -/
def Clp.select (c : Clp) : Clp :=
  match c.spi with
  | .putting true => c
  | .taking _ _ => c
  | _ => { c with spi := .selected { c with spi := .idle }.linkStatus, spiOut := [] }

/-- R176: a PUT opening byte: acceptable or not, decided at once. -/
def Clp.openPut (c : Clp) : Clp :=
  match c.spi with
  | .selected status => { c with spi := .putting c.putAcceptable, spiOut := [status] }
  | _ => c

/-- R180: a TAKE opening byte fixes the oldest frame. -/
def Clp.openTake (c : Clp) : Clp :=
  match c.spi with
  | .selected status => { c with spi := .taking c.outbound.head? true, spiOut := [status] }
  | _ => c

/-- R174: any other opening byte: the part clocks out 0x00 on every later byte and ignores what the host sends. With no whole
byte clocked nothing changes. -/
def Clp.openOther (bytes : List Byte) (c : Clp) : Clp :=
  match bytes, c.spi with
  | _ :: later, .selected status => { c with spi := .ignoring, spiOut := status :: List.replicate later.length 0 }
  | _, _ => c

/-- R176: the request of the bytes of a PUT: the kind, the tag and the length byte, then the bytes stored, of the first 63
after the opening byte, and the count of all. None where fewer than three followed. -/
def requestOf : List Byte → Option Request
  | kind :: tag :: lengthByte :: rest =>
    some { kind := kind, tag := tag, lengthByte := lengthByte, body := rest.take 60, count := rest.length }
  | _ => none

/-- R176: the deselect of a PUT. An acceptable one of three bytes or more joins the inbound queue with its place and its
reservation; of fewer, both are released. -/
def Clp.closePut (bytes : List Byte) (c : Clp) : Clp :=
  match c.spi with
  | .putting acceptable =>
    { c with
      spi := .idle, spiOut := c.spiOut ++ List.replicate bytes.length 0,
      inbound := if acceptable then c.inbound ++ (requestOf bytes).toList else c.inbound }
  | _ => c

/-- R180: the bytes clocked out after the opening byte of a TAKE: the frame's, then 0x00. -/
def takeBytes (frame : Option Frame) (clocked : Nat) : List Byte :=
  let bytes := (frame.map Frame.bytes).getD []
  bytes.take clocked ++ List.replicate (clocked - bytes.length) 0

/-- R180: whether the host has clocked every byte of the frame a TAKE fixed. -/
def clockedWhole (frame : Option Frame) (clocked : Nat) : Bool :=
  match frame with
  | some f => decide (f.bytes.length ≤ clocked)
  | none => false

/-- R180: the deselect of a TAKE: the frame leaves the queue where every byte of it was clocked and it is still there. -/
def Clp.closeTake (clocked : Nat) (c : Clp) : Clp :=
  match c.spi with
  | .taking frame queued =>
    { c with
      spi := .idle, spiOut := c.spiOut ++ takeBytes frame clocked,
      outbound := if queued && clockedWhole frame clocked then c.outbound.drop 1 else c.outbound }
  | _ => c

/-- SPI_SELECT (R174). -/
def execSpiSelect (t : Time) (s : State) : Host.Outcome State Fault Refusal := .next ((s.at t).setClp s.clp.select)

/-- PUT (R176). -/
def execPut (t : Time) (s : State) : Host.Outcome State Fault Refusal := .next ((s.at t).setClp s.clp.openPut)

/-- PUT_DESELECT (R176). -/
def execPutDeselect (t : Time) (bytes : List Byte) (s : State) : Host.Outcome State Fault Refusal :=
  .next ((s.at t).setClp (s.clp.closePut bytes))

/-- TAKE (R180). -/
def execTake (t : Time) (s : State) : Host.Outcome State Fault Refusal := .next ((s.at t).setClp s.clp.openTake)

/-- TAKE_DESELECT (R180). -/
def execTakeDeselect (t : Time) (clocked : Nat) (s : State) : Host.Outcome State Fault Refusal :=
  .next ((s.at t).setClp (s.clp.closeTake clocked))

/-- OTHER_OPENING_BYTE (R174). The values of the bytes change nothing. -/
def execOtherOpeningByte (t : Time) (bytes : List Byte) (s : State) : Host.Outcome State Fault Refusal :=
  .next ((s.at t).setClp (s.clp.openOther bytes))

/-! ## Requests -/

/-- R178: a kind byte that names a request. -/
def kindKnown (kind : Byte) : Bool := decide (0x01 ≤ kind) && decide (kind ≤ 0x1E)

/-- R178: the frame's length check. -/
def Request.frameOk (r : Request) : Bool := decide (r.lengthByte.toNat ≤ 60) && decide (r.count = r.lengthByte.toNat)

/-- R177, R179: the reply to the oldest request is queued into its reservation, and its place is freed. -/
def Clp.sendReply (r : Request) (reply : Reply) (c : Clp) : Clp :=
  { c with outbound := c.outbound ++ [reply.frame r.kind r.tag], inbound := c.inbound.drop 1 }

/-- The reply to the oldest request leaves the state an owning block has left. -/
def State.reply (r : Request) (result : State × Reply) : State := result.1.setClp (result.1.clp.sendReply r result.2)

/-- R177, R178: the CLP executes the oldest request, of a kind, at time t: the frame's length check, then its owning block
on the payload, then the reply. Where the oldest request is of another kind, or none waits, no such request is executed
(assumption log 4). -/
def State.execute (kind : Byte) (t : Time) (owner : List Byte → State → State × Reply) (s : State) : State :=
  match (s.at t).clp.inbound with
  | [] => s.at t
  | r :: _ =>
    if r.kind = kind then
      State.reply r (if r.frameOk then owner r.body (s.at t) else (s.at t, .bare .badLength))
    else s.at t

/-- R178: a request of a kind that names none is answered BAD KIND. -/
def State.executeUnknown (t : Time) (s : State) : State :=
  match (s.at t).clp.inbound with
  | [] => s.at t
  | r :: _ => if kindKnown r.kind then s.at t else State.reply r (s.at t, .bare .badKind)

/-- UNKNOWN_REQUEST (R178). -/
def execUnknownRequest (t : Time) (s : State) : Host.Outcome State Fault Refusal := .next (s.executeUnknown t)

end Sys2Proof.Machine
end

