-- ==== Sys2Proof/Machine/Settings.lean ====
section
/-! DEFINITION. Settings.lean: the host requests that write tables and settings: SET COMPUTER to WRITE PRESET
(11_control_link.md, Requests). Each owner's checks stand in its rule's order. -/

namespace Sys2Proof.Machine

/-! ## SET COMPUTER (R101) -/

/-- R101. -/
def requestSetComputer (p : List Byte) (s : State) : State × Reply :=
  if p.length ≠ 6 then (s, .bare .badLength)
  else match index 8 (at8 p 0) with
    | none => (s, .bare .badIndex)
    | some c =>
      let dw := at16 p 1
      let dh := at16 p 3
      let flags := at8 p 5
      if 1 ≤ dw ∧ dw ≤ 16384 ∧ 1 ≤ dh ∧ dh ≤ 16384 ∧ flags &&& 0xF8 = 0 then
        (s.setComp c { s.comp c with
          dw := dw, dh := dh, wakeOnInput := flags.getLsbD 0, wakeOnFocus := flags.getLsbD 1,
          sleepsWithDesk := flags.getLsbD 2 }, .bare .ok)
      else (s, .bare .badValue)

/-! ## SET HEAD (R122) -/

/-- R120, R122: how many heads other than h a computer owns. -/
def Lco.headsOwned (l : Lco) (c : Comp) (h : HeadId) : Nat :=
  ((List.finRange 16).filter (fun g => decide (g ≠ h) && decide (l.heads[g].owner = some c))).length

/-- R122: the IN USE check. -/
def Lco.mayOwn (l : Lco) (h : HeadId) (owner : Option Comp) : Bool :=
  match owner with
  | none => true
  | some c => decide (l.headsOwned c h < 4)

/-- R122: the record is written; a change of owner is told to the Pointer Unit and to the WPC. DESIGN CHOICE: the Pointer Unit
is told first and acts whole before the WPC; R122 gives them no order (assumption log 28). -/
def State.writeHead (h : HeadId) (owner : Option Comp) (dx dy : Nat) (s : State) : State :=
  let old := s.lco.heads[h]
  let s := s.setLco { s.lco with heads := s.lco.heads.set h { old with owner := owner, dx := dx, dy := dy } }
  if old.owner = owner then s else s.reevaluate.reevaluateScreens State.reevaluate

/-- R122. -/
def requestSetHead (p : List Byte) (s : State) : State × Reply :=
  if p.length ≠ 6 then (s, .bare .badLength)
  else match index 16 (at8 p 0) with
    | none => (s, .bare .badIndex)
    | some h =>
      match indexOrAbsent 8 (at8 p 1) with
      | none => (s, .bare .badValue)
      | some owner =>
        if at16 p 2 ≤ 16383 ∧ at16 p 4 ≤ 16383 then
          if s.lco.mayOwn h owner then (s.writeHead h owner (at16 p 2) (at16 p 4), .bare .ok) else (s, .bare .inUse)
        else (s, .bare .badValue)

/-! ## PLACE SCREEN (R125) -/

/-- The placement fields of a PLACE SCREEN. -/
structure Placement where
  placed : Bool
  rect : Rect
  alwaysOn : Bool
  background : Colour
deriving DecidableEq, Repr

/-- R125: the first three checks. -/
def parsePlacement (p : List Byte) : Except Status (ScreenId × Placement) :=
  if p.length ≠ 14 then .error .badLength
  else match index 8 (at8 p 0) with
    | none => .error .badIndex
    | some scr =>
      let r := rectAt p 2
      match flag (at8 p 1), flag (at8 p 10) with
      | some placed, some alwaysOn =>
        if 640 ≤ r.w ∧ r.w ≤ 2560 ∧ 480 ≤ r.h ∧ r.h ≤ 1600 ∧ r.x + r.w ≤ 16384 ∧ r.y + r.h ≤ 16384 then
          .ok (scr, { placed := placed, rect := r, alwaysOn := alwaysOn, background := colourAt p 11 })
        else .error .badValue
      | _, _ => .error .badValue

/-- R125: some screen other than this one is placed. -/
def Lco.otherPlaced (l : Lco) (scr : ScreenId) : Bool :=
  allScreens.any (fun o => decide (o ≠ scr) && l.screens[o].placed)

/-- R125: every tile of the screen's chains lies within a size. -/
def Lco.tilesFit (l : Lco) (scr : ScreenId) (w h : Nat) : Bool :=
  (l.activeChain scr ++ l.pendingChain scr).all (fun r =>
    match l.tiles[r] with
    | some tile => tile.rect.within w h
    | none => true)

/-- R125: a rectangle shares a point with another placed screen. -/
def Lco.overlapsOther (l : Lco) (scr : ScreenId) (r : Rect) : Bool :=
  allScreens.any (fun o => decide (o ≠ scr) && l.screens[o].placed && r.overlaps l.screens[o].rect)

/-- R125: the screen has a chain that keeps it from being unplaced. -/
def Screen.hasChain (s : Screen) : Bool := s.active.isSome || (s.pending.isSome && decide (s.pending ≠ some none))

/-- R125: the checks that read the screen records; none where all pass. -/
def Lco.placementRefusal (l : Lco) (scr : ScreenId) (p : Placement) : Option Status :=
  if !p.placed && !l.otherPlaced scr then some .wrongState
  else if !p.placed && l.screens[scr].hasChain then some .inUse
  else if !l.tilesFit scr p.rect.w p.rect.h then some .inUse
  else if p.placed && l.overlapsOther scr p.rect then some .overlap
  else none

/-- R125: the placement fields are replaced. A pending chain of NONE on a screen being unplaced is made absent. -/
def Lco.place (l : Lco) (scr : ScreenId) (p : Placement) : Lco :=
  l.setScreen scr { l.screens[scr] with
    placed := p.placed, rect := p.rect, alwaysOn := p.alwaysOn, background := p.background,
    pending := if p.placed then l.screens[scr].pending else none }

/-- R125: the placement is written, the Pointer Unit is told (R97), and, where always-on or placed changed, the WPC. DESIGN
CHOICE: the Pointer Unit is told first and acts whole before the WPC; R125 gives them no order (assumption log 28). -/
def State.placeScreen (scr : ScreenId) (p : Placement) (s : State) : State :=
  let old := s.lco.screens[scr]
  let s := (s.setLco (s.lco.place scr p)).keepPlaced
  if old.placed = p.placed ∧ old.alwaysOn = p.alwaysOn then s else s.reevaluateScreen State.reevaluate scr

/-- R125. Refused or not, the Pointer Unit is told once the screen records are as the request leaves them. -/
def requestPlaceScreen (p : List Byte) (s : State) : State × Reply :=
  match parsePlacement p with
  | .error st => (s.keepPlaced, .bare st)
  | .ok (scr, placement) =>
    match s.lco.placementRefusal scr placement with
    | some st => (s.keepPlaced, .bare st)
    | none => (s.placeScreen scr placement, .bare .ok)

/-! ## SET POINTER (R81) -/

/-- R81: the ten bytes of the reply. -/
def State.pointerBytes (s : State) : List Byte :=
  byte s.ptu.speed :: le16 s.ptu.dwell ++ le16 s.ptu.guard ++ le16 s.ptu.px ++ le16 s.ptu.py ++ [compByte s.hitComputer]

/-- R81: the settings clamped and written. -/
def State.writePointer (p : List Byte) (s : State) : State :=
  s.setPtu { s.ptu with
    speed := clampNat 1 64 (at8 p 0).toNat, dwell := clampNat 0 500 (at16 p 1), guard := clampNat 0 1000 (at16 p 3) }

/-- R81. -/
def requestSetPointer (p : List Byte) (s : State) : State × Reply :=
  if p = [] then (s, .okWith s.pointerBytes)
  else if p.length ≠ 5 then (s, .bare .badLength)
  else (s.writePointer p, .okWith (s.writePointer p).pointerBytes)

/-! ## SET HOTKEY TIMING (R19) -/

/-- R19: the five bytes of the values in effect. -/
def Hks.timingBytes (h : Hks) : List Byte := h.leader.getD 0 :: le16 h.tapWindow ++ le16 h.commandWindow

/-- R19: sequences are off at once where the leader becomes none in FIRST TAP or ARMED. -/
def State.leaderNone (s : State) : State :=
  match s.hks.seq with
  | .firstTap _ _ => s.releaseHold
  | .armed _ => s.releaseHold
  | _ => s

/-- R19: the settings clamped and written. -/
def State.writeTiming (p : List Byte) (s : State) : State :=
  let leader := at8 p 0
  let s := s.setHks { s.hks with
    leader := if leader = 0 then none else some leader,
    tapWindow := clampNat 100 1000 (at16 p 1), commandWindow := clampNat 500 5000 (at16 p 3) }
  if leader = 0 then s.leaderNone else s

/-- R19. -/
def requestSetHotkeyTiming (p : List Byte) (s : State) : State × Reply :=
  if p.length ≠ 5 then (s, .bare .badLength)
  else if 1 ≤ at8 p 0 ∧ at8 p 0 ≤ 3 then (s, .bare .badValue)
  else (s.writeTiming p, .okWith (s.writeTiming p).hks.timingBytes)

/-! ## WRITE HOTKEY (R18), WRITE RULE (R42) -/

/-- R18. -/
def requestWriteHotkey (p : List Byte) (s : State) : State × Reply :=
  match parseHotkey p with
  | .error st => (s, .bare st)
  | .ok (i, e) => (s.setHks { s.hks with table := s.hks.table.set i e }, .bare .ok)

/-- R42. -/
def requestWriteRule (p : List Byte) (s : State) : State × Reply :=
  match parseRule p with
  | .error st => (s, .bare st)
  | .ok (i, r) => (s.setRtf { s.rtf with rules := s.rtf.rules.set i r }, .bare .ok)

/-! ## SET BORDER COLOURS (R139), SET POWER TIMING (R164) -/

/-- R139. -/
def requestSetBorderColours (p : List Byte) (s : State) : State × Reply :=
  if p.length ≠ 9 then (s, .bare .badLength)
  else
    let borders := { focus := colourAt p 0, lock := colourAt p 3, pending := colourAt p 6 }
    (s.setLco { s.lco with borders := borders }, .bare .ok)

/-- R164: the six bytes of the values in effect. -/
def Wpc.timingBytes (w : Wpc) : List Byte := le16 w.wakeTimeout ++ le16 w.sleepTimeout ++ le16 w.standbyHold

/-- R164: the settings clamped and written. -/
def State.writePowerTiming (p : List Byte) (s : State) : State :=
  s.setWpc { s.wpc with
    wakeTimeout := clampNat 200 10000 (at16 p 0), sleepTimeout := clampNat 1000 60000 (at16 p 2),
    standbyHold := clampNat 0 600 (at16 p 4) }

/-- R164. -/
def requestSetPowerTiming (p : List Byte) (s : State) : State × Reply :=
  if p = [] then (s, .okWith s.wpc.timingBytes)
  else if p.length ≠ 6 then (s, .bare .badLength)
  else (s.writePowerTiming p, .okWith (s.writePowerTiming p).wpc.timingBytes)

/-! ## WRITE TILE (R128), FREE TILE (R129) -/

/-- R128. -/
def requestWriteTile (p : List Byte) (s : State) : State × Reply :=
  match parseTile p with
  | .error st => (s, .bare st)
  | .ok (r, tile) =>
    if s.lco.inAnyChain r then (s, .bare .inUse) else (s.setLco (s.lco.setTile r (some tile)), .bare .ok)

/-- R129. -/
def requestFreeTile (p : List Byte) (s : State) : State × Reply :=
  if p.length ≠ 1 then (s, .bare .badLength)
  else
    let r : TileId := (at8 p 0).toFin
    if s.lco.inAnyChain r then (s, .bare .inUse) else (s.setLco (s.lco.setTile r none), .bare .ok)

/-! ## WRITE PRESET (R142) -/

/-- R142. -/
def requestWritePreset (p : List Byte) (s : State) : State × Reply :=
  match parsePreset p with
  | .error st => (s, .bare st)
  | .ok (n, preset) => (s.setLco { s.lco with presets := s.lco.presets.set n preset }, .bare .ok)

/-- SET_COMPUTER (R101), kind 0x01. -/
def execSetComputer (t : Time) (s : State) : Host.Outcome State Fault Refusal := .next (s.execute 0x01 t requestSetComputer)

/-- SET_HEAD (R122), kind 0x02. -/
def execSetHead (t : Time) (s : State) : Host.Outcome State Fault Refusal := .next (s.execute 0x02 t requestSetHead)

/-- PLACE_SCREEN (R125), kind 0x03. -/
def execPlaceScreen (t : Time) (s : State) : Host.Outcome State Fault Refusal := .next (s.execute 0x03 t requestPlaceScreen)

/-- SET_POINTER (R81), kind 0x04. -/
def execSetPointer (t : Time) (s : State) : Host.Outcome State Fault Refusal := .next (s.execute 0x04 t requestSetPointer)

/-- SET_HOTKEY_TIMING (R19), kind 0x05. -/
def execSetHotkeyTiming (t : Time) (s : State) : Host.Outcome State Fault Refusal :=
  .next (s.execute 0x05 t requestSetHotkeyTiming)

/-- WRITE_HOTKEY (R18), kind 0x06. -/
def execWriteHotkey (t : Time) (s : State) : Host.Outcome State Fault Refusal := .next (s.execute 0x06 t requestWriteHotkey)

/-- WRITE_RULE (R42), kind 0x07. -/
def execWriteRule (t : Time) (s : State) : Host.Outcome State Fault Refusal := .next (s.execute 0x07 t requestWriteRule)

/-- SET_BORDER_COLOURS (R139), kind 0x08. -/
def execSetBorderColours (t : Time) (s : State) : Host.Outcome State Fault Refusal :=
  .next (s.execute 0x08 t requestSetBorderColours)

/-- SET_POWER_TIMING (R164), kind 0x09. -/
def execSetPowerTiming (t : Time) (s : State) : Host.Outcome State Fault Refusal :=
  .next (s.execute 0x09 t requestSetPowerTiming)

/-- WRITE_TILE (R128), kind 0x0A. -/
def execWriteTile (t : Time) (s : State) : Host.Outcome State Fault Refusal := .next (s.execute 0x0A t requestWriteTile)

/-- FREE_TILE (R129), kind 0x0B. -/
def execFreeTile (t : Time) (s : State) : Host.Outcome State Fault Refusal := .next (s.execute 0x0B t requestFreeTile)

/-- WRITE_PRESET (R142), kind 0x0D. -/
def execWritePreset (t : Time) (s : State) : Host.Outcome State Fault Refusal := .next (s.execute 0x0D t requestWritePreset)

end Sys2Proof.Machine
end

