-- ==== Sys2Proof/Machine/Actions.lean ====
section
/-! DEFINITION. Actions.lean: the host requests that act: SET CHAIN, APPLY PRESET to SCAN PANELS (11_control_link.md,
Requests). Each owner's checks stand in its rule's order. -/

namespace Sys2Proof.Machine

/-! ## SET CHAIN (R131, R132) -/

/-- R131: the bytes after CHAIN INVALID: the sub-code and the record, a record number being one byte (assumption log 15). -/
def chainInvalidReply (f : WalkFailure) (r : TileId) : Reply := { status := .chainInvalid, data := [f.code, byte r.val] }

/-- R131, R132: the walk, and a chain that passes it. -/
def State.chainFor (scr : ScreenId) (start : Option TileId) (s : State) : State × Reply :=
  if !s.lco.screens[scr].placed then (s, .bare .wrongState)
  else match s.lco.checkChain scr start with
    | some (f, r) => (s, chainInvalidReply f r)
    | none =>
      let (s, atOnce) := s.takeChain State.reevaluate scr start
      (s, .okWith [flagByte atOnce])

/-- R131. -/
def requestSetChain (p : List Byte) (s : State) : State × Reply :=
  if p.length ≠ 3 then (s, .bare .badLength)
  else match index 8 (at8 p 0) with
    | none => (s, .bare .badIndex)
    | some scr =>
      match startOf (at16 p 1) with
      | none => (s, .bare .badValue)
      | some start => s.chainFor scr start

/-! ## APPLY PRESET (R144, R147) -/

/-- R147: the two bytes of the reply. -/
def PresetOutcome.bytes (o : PresetOutcome) : List Byte := [byte (o.screens.filter ScreenOutcome.failed).length, o.focus]

/-- R144. -/
def requestApplyPreset (p : List Byte) (s : State) : State × Reply :=
  if p.length ≠ 1 then (s, .bare .badLength)
  else match index 16 (at8 p 0) with
    | none => (s, .bare .badIndex)
    | some n =>
      match s.applyPreset n with
      | none => (s, .bare .wrongState)
      | some (s', outcome) => (s', .okWith outcome.bytes)

/-! ## FLIP TILE (R135) -/

/-- R135: the showing field and the flip-pending flag as they now stand. -/
def Lco.flipBytes (l : Lco) (r : TileId) : List Byte :=
  match l.tiles[r] with
  | some tile => [tile.showing.code, flagByte tile.flipWaits]
  | none => [0, 0]

/-- R135. -/
def requestFlipTile (p : List Byte) (s : State) : State × Reply :=
  if p.length ≠ 1 then (s, .bare .badLength)
  else
    let r : TileId := (at8 p 0).toFin
    match s.askFlip State.reevaluate r with
    | none => (s, .bare .wrongState)
    | some s' => (s', .okWith (s'.lco.flipBytes r))

/-! ## SET FOCUS (R61) -/

/-- R61: the three bytes of the reply. -/
def Fcu.focusBytes (f : Fcu) (changed : Bool) : List Byte := [byte f.focus.val, f.lock.code, flagByte changed]

/-- R61: the request judged, and carried out where it is not refused. -/
def State.hostFocus (c : Comp) (forced : Bool) (s : State) : State × Reply :=
  match s.fcu.judge c .host forced with
  | .refusedLocked => (s, { status := .locked, data := s.fcu.focusBytes false })
  | .ignored => (s, .okWith (s.fcu.focusBytes false))
  | .done =>
    let s := s.requestFocus c .host forced
    (s, .okWith (s.fcu.focusBytes true))

/-- R61. -/
def requestSetFocus (p : List Byte) (s : State) : State × Reply :=
  if p.length ≠ 2 then (s, .bare .badLength)
  else match index 8 (at8 p 0) with
    | none => (s, .bare .badIndex)
    | some c =>
      match flag (at8 p 1) with
      | none => (s, .bare .badValue)
      | some forced => s.hostFocus c forced

/-! ## SET LOCK (R76) -/

/-- R74, R75, R76: the lock set to HARD, or HARD cleared. -/
def State.hostLock (hard : Bool) (s : State) : State := if hard then s.setHard else s.clearHard

/-- R76. -/
def requestSetLock (p : List Byte) (s : State) : State × Reply :=
  if p.length ≠ 1 then (s, .bare .badLength)
  else match flag (at8 p 0) with
    | none => (s, .bare .badValue)
    | some hard => (s.hostLock hard, .okWith [(s.hostLock hard).fcu.lock.code])

/-! ## WAKE COMPUTER (R153) -/

/-- R153: the checks of the port, and the wake. -/
def State.hostWake (c : Comp) (s : State) : State × Reply :=
  match (s.comp c).port with
  | .resuming => (s.wake State.reevaluate c .host, .okWith [1])
  | .suspended =>
    if (s.comp c).remoteWake then (s.wake State.reevaluate c .host, .okWith [0]) else (s, .bare .noPermission)
  | _ => (s, .bare .wrongState)

/-- R153. -/
def requestWakeComputer (p : List Byte) (s : State) : State × Reply :=
  if p.length ≠ 1 then (s, .bare .badLength)
  else match index 8 (at8 p 0) with
    | none => (s, .bare .badIndex)
    | some c => s.hostWake c

/-! ## DESK SLEEP (R156, R181), DESK WAKE (R159) -/

/-- R156: the reply shows the desk state now in effect. -/
def requestDeskSleep (p : List Byte) (s : State) : State × Reply :=
  if p ≠ [] then (s, .bare .badLength)
  else if s.wpc.desk = .awake then (s.startSleep, .okWith [s.startSleep.wpc.desk.code])
  else (s, .bare .wrongState)

/-- R159: desk sleep cancelled, or the desk woken, with cause HOST WAKE. -/
def State.hostDeskWake (s : State) : State :=
  match s.wpc.desk with
  | .awake => s
  | .sleepRequested => s.cancelSleep .hostWake
  | .asleep => s.wakeDesk .hostWake

/-- R159. -/
def requestDeskWake (p : List Byte) (s : State) : State × Reply :=
  if p ≠ [] then (s, .bare .badLength) else (s.hostDeskWake, .okWith [s.hostDeskWake.wpc.desk.code])

/-! ## SCAN PANELS (R168) -/

/-- R168. -/
def requestScanPanels (p : List Byte) (s : State) : State × Reply :=
  if p ≠ [] then (s, .bare .badLength)
  else if s.scanning then (s, .bare .wrongState)
  else (s.startScan, .bare .ok)

/-! ## The commands -/

/-- SET_CHAIN (R131, R132), kind 0x0C. -/
def execSetChain (t : Time) (s : State) : Host.Outcome State Fault Refusal := .next (s.execute 0x0C t requestSetChain)

/-- APPLY_PRESET (R144), kind 0x0E. -/
def execApplyPreset (t : Time) (s : State) : Host.Outcome State Fault Refusal := .next (s.execute 0x0E t requestApplyPreset)

/-- FLIP_TILE (R135), kind 0x0F. -/
def execFlipTile (t : Time) (s : State) : Host.Outcome State Fault Refusal := .next (s.execute 0x0F t requestFlipTile)

/-- SET_FOCUS (R61), kind 0x10. -/
def execSetFocus (t : Time) (s : State) : Host.Outcome State Fault Refusal := .next (s.execute 0x10 t requestSetFocus)

/-- SET_LOCK (R76), kind 0x11. -/
def execSetLock (t : Time) (s : State) : Host.Outcome State Fault Refusal := .next (s.execute 0x11 t requestSetLock)

/-- WAKE_COMPUTER (R153), kind 0x12. -/
def execWakeComputer (t : Time) (s : State) : Host.Outcome State Fault Refusal := .next (s.execute 0x12 t requestWakeComputer)

/-- DESK_SLEEP (R156), kind 0x13. -/
def execDeskSleep (t : Time) (s : State) : Host.Outcome State Fault Refusal := .next (s.execute 0x13 t requestDeskSleep)

/-- DESK_WAKE (R159), kind 0x14. -/
def execDeskWake (t : Time) (s : State) : Host.Outcome State Fault Refusal := .next (s.execute 0x14 t requestDeskWake)

/-- SCAN_PANELS (R168), kind 0x15. -/
def execScanPanels (t : Time) (s : State) : Host.Outcome State Fault Refusal := .next (s.execute 0x15 t requestScanPanels)

end Sys2Proof.Machine
end

