-- ==== Sys2Proof/Machine/Reads.lean ====
section
/-! DEFINITION. Reads.lean: the READ requests of the host (11_control_link.md, Requests). None changes a record. -/

namespace Sys2Proof.Machine

/-- A READ request of one index: its length and its index are checked, and the bytes of the record are the reply. -/
def readIndexed (n : Nat) (bytes : Fin n → List Byte) (p : List Byte) : Reply :=
  if p.length ≠ 1 then .bare .badLength
  else match index n (at8 p 0) with
    | none => .bare .badIndex
    | some i => .okWith (bytes i)

/-- A READ request of no operand. -/
def readWhole (bytes : List Byte) (p : List Byte) : Reply := if p ≠ [] then .bare .badLength else .okWith bytes

/-! ## READ COMPUTER (R118) -/

/-- R101, R118: the flags byte. -/
def Computer.flags (r : Computer) : Byte :=
  flagByte r.wakeOnInput ||| (flagByte r.wakeOnFocus <<< 1) ||| (flagByte r.sleepsWithDesk <<< 2)

/-- R118: the owed flags. -/
def Computer.owed (r : Computer) : Byte := flagByte r.owedKeyboard ||| (flagByte r.owedPointer <<< 1)

/-- R118: the last sent pointer state. -/
def pointerStateBytes : Option PointerState → List Byte
  | some p => buttonByte p.buttons :: le16 p.ax ++ le16 p.ay
  | none => 0xFF :: le16 0 ++ le16 0

/-- R118: the bytes after the status. -/
def State.computerBytes (s : State) (c : Comp) : List Byte :=
  let r := s.comp c
  [byte c.val, r.port.code, flagByte r.remoteWake] ++ le16 r.dw ++ le16 r.dh ++
    [r.flags, byte r.queue.length, r.owed] ++ le16 r.merge ++ pointerStateBytes r.lastPointer ++
    byte r.keySet.length :: r.keySet

/-! ## READ SCREEN (R126) -/

/-- R126: the pending chain start, 0xFFFE when absent. -/
def pendingField : Option (Option TileId) → List Byte
  | some start => startField start
  | none => le16 0xFFFE

/-- R126: the bytes after the status. -/
def State.screenBytes (s : State) (scr : ScreenId) : List Byte :=
  let r := s.lco.screens[scr]
  [byte scr.val, flagByte r.placed] ++ r.rect.bytes ++ flagByte r.alwaysOn :: r.background.bytes ++
    startField r.active ++ pendingField r.pending ++ [(s.power scr).code]

/-! ## READ TILE (R129) -/

/-- R129: the membership bytes. -/
def Lco.membership (l : Lco) (r : TileId) : List Byte :=
  match allScreens.find? (fun scr => l.inChains scr r) with
  | some scr =>
    [byte scr.val,
      flagByte ((l.activeChain scr).contains r) ||| (flagByte ((l.pendingChain scr).contains r) <<< 1)]
  | none => [0xFF, 0]

/-- R129: the bytes after the status. -/
def Lco.tileBytes (l : Lco) (r : TileId) : List Byte :=
  match l.tiles[r] with
  | some tile => [byte r.val, 1] ++ l.membership r ++ tile.bytes
  | none => [byte r.val, 0] ++ l.membership r

/-! ## READ FOCUS (R77) -/

/-- R77: the park tile identity. -/
def parkBytes : Option TileRef → List Byte
  | some t => byte t.screen.val :: startField t.record ++ [match t.cell with
    | some i => byte i.val
    | none => 0xFF]
  | none => 0xFF :: le16 0xFFFF ++ [0xFF]

/-- R77: the bytes after the status. -/
def Fcu.bytes (f : Fcu) : List Byte :=
  [byte f.focus.val, f.lock.code, compByte (f.pending.map Pending.target), flagByte f.guard.isSome, flagByte f.park.isSome] ++
    parkBytes f.park ++ [f.lastCause.code]

/-! ## READ HEAD (R123) -/

/-- R123: the bytes after the status. -/
def Lco.headBytes (l : Lco) (h : HeadId) : List Byte :=
  let r := l.heads[h]
  [byte h.val, compByte r.owner] ++ le16 r.dx ++ le16 r.dy ++ flagByte r.size.isSome :: le16 r.measured.1 ++
    le16 r.measured.2

/-! ## READ DESK (R14, R155, R181) -/

/-- R181: the bytes after the status. -/
def State.deskBytes (s : State) : List Byte :=
  allDeskPorts.flatMap (fun p => [s.diu[p].code, s.diu[p].reasonCode]) ++
    [s.deskModifiers.setWidth 8, s.wpc.desk.code, s.wpc.awaited, s.notAsleep s.wpc.awaited]

/-! ## READ PANELS (R172) -/

/-- R172: the buttons whose state is HELD, bit b for button b. -/
def Panel.heldButtons (p : Panel) : Byte := compSetOf (fun b => decide (p.buttons[b] = .held))

/-- R172: a record's four bytes. -/
def Panel.bytes (p : Panel) : List Byte :=
  [panelAddress p.address, if p.present then 0 else 1, p.heldButtons, p.lastPattern.getD 0]

/-- R172: the bytes after the status. -/
def State.panelBytes (s : State) : List Byte :=
  [flagByte s.scanning, byte s.psc.panels.length] ++ s.psc.panels.flatMap Panel.bytes ++
    allComps.map (fun c => (s.led c).code)

/-! ## READ ENTRY (R181, R18, R42, R142) -/

/-- R142: a preset's bytes after the status. -/
def Lco.presetBytes (l : Lco) (n : PresetId) : List Byte :=
  match l.presets[n] with
  | some p => [byte n.val, 1] ++ p.bytes
  | none => [byte n.val, 0]

/-- An entry of a table of n entries, where the index lies within it (R181). -/
def entryReply (n : Nat) (bytes : Fin n → List Byte) (i : Byte) : Reply :=
  match index n i with
  | none => .bare .badIndex
  | some i => .okWith (bytes i)

/-- R181: the table selected. -/
def State.readEntryOf (s : State) (selector i : Byte) : Reply :=
  if selector = 0 then entryReply 32 (fun i => s.rtf.rules[i].bytes i) i
  else if selector = 1 then entryReply 24 (fun i => s.hks.table[i].bytes i) i
  else if selector = 2 then entryReply 16 s.lco.presetBytes i
  else .bare .badValue

/-! ## The requests -/

/-- R118. -/
def requestReadComputer (p : List Byte) (s : State) : State × Reply := (s, readIndexed 8 s.computerBytes p)

/-- R126. -/
def requestReadScreen (p : List Byte) (s : State) : State × Reply := (s, readIndexed 8 s.screenBytes p)

/-- R129. -/
def requestReadTile (p : List Byte) (s : State) : State × Reply := (s, readIndexed 256 s.lco.tileBytes p)

/-- R77. -/
def requestReadFocus (p : List Byte) (s : State) : State × Reply := (s, readWhole s.fcu.bytes p)

/-- R123. -/
def requestReadHead (p : List Byte) (s : State) : State × Reply := (s, readIndexed 16 s.lco.headBytes p)

/-- R14, R155, R181. -/
def requestReadDesk (p : List Byte) (s : State) : State × Reply := (s, readWhole s.deskBytes p)

/-- R172. -/
def requestReadPanels (p : List Byte) (s : State) : State × Reply := (s, readWhole s.panelBytes p)

/-- R181. -/
def requestReadEntry (p : List Byte) (s : State) : State × Reply :=
  (s, if p.length ≠ 2 then .bare .badLength else s.readEntryOf (at8 p 0) (at8 p 1))

/-- READ_COMPUTER (R118), kind 0x17. -/
def execReadComputer (t : Time) (s : State) : Host.Outcome State Fault Refusal := .next (s.execute 0x17 t requestReadComputer)

/-- READ_SCREEN (R126), kind 0x18. -/
def execReadScreen (t : Time) (s : State) : Host.Outcome State Fault Refusal := .next (s.execute 0x18 t requestReadScreen)

/-- READ_TILE (R129), kind 0x19. -/
def execReadTile (t : Time) (s : State) : Host.Outcome State Fault Refusal := .next (s.execute 0x19 t requestReadTile)

/-- READ_FOCUS (R77), kind 0x1A. -/
def execReadFocus (t : Time) (s : State) : Host.Outcome State Fault Refusal := .next (s.execute 0x1A t requestReadFocus)

/-- READ_HEAD (R123), kind 0x1B. -/
def execReadHead (t : Time) (s : State) : Host.Outcome State Fault Refusal := .next (s.execute 0x1B t requestReadHead)

/-- READ_DESK (R14, R155, R181), kind 0x1C. -/
def execReadDesk (t : Time) (s : State) : Host.Outcome State Fault Refusal := .next (s.execute 0x1C t requestReadDesk)

/-- READ_PANELS (R172), kind 0x1D. -/
def execReadPanels (t : Time) (s : State) : Host.Outcome State Fault Refusal := .next (s.execute 0x1D t requestReadPanels)

/-- READ_ENTRY (R181), kind 0x1E. -/
def execReadEntry (t : Time) (s : State) : Host.Outcome State Fault Refusal := .next (s.execute 0x1E t requestReadEntry)

end Sys2Proof.Machine
end

