-- ==== Sys2Proof/Machine/Reset.lean ====
section
/-! DEFINITION. Reset.lean: full reset (R15, R40, R55, R78, R98, R119, R140, R149, R165, R173, R183) and RESTART (R182). -/

namespace Sys2Proof.Machine

/-- Full reset: every record at its reset value, the clock going on, the commands that wait still waiting (assumption
log 5). The scan it starts waits for a transaction already on the panel bus (R168). -/
def State.fullReset (s : State) : State := { State.resetAt s.clock with psc := s.psc.scanned, pending := s.pending }

/-- FULL_RESET (R183). -/
def execFullReset (t : Time) (s : State) : Host.Outcome State Fault Refusal := .next (s.at t).fullReset

/-! ## RESTART in the link (R182, steps 1 to 3) -/

/-- R180: a TAKE in progress whose frame RESTART removes. -/
def Spi.orphaned : Spi → Spi
  | .taking frame _ => .taking frame false
  | spi => spi

/-- R182: the two counts of the reply: the requests discarded and the frames removed. -/
def Clp.restartReply (c : Clp) : Reply := .okWith [byte (c.inbound.length - 1), byte c.outbound.length]

/-- R182, steps 1 to 3: the inbound queue is emptied, the frames are removed, the reply to request r is the only frame, and
the notice-lost flag is clear. A PUT in progress keeps its place. -/
def Clp.restarted (r : Request) (c : Clp) : Clp :=
  { c with inbound := [], outbound := [c.restartReply.frame r.kind r.tag], lost := false, spi := c.spi.orphaned }

/-! ## RESTART in the other blocks (R182, step 4) -/

/-- R54: the held key table is emptied and the key sets follow. -/
def State.restartKeys (s : State) : State := s.setHeld []

/-- R99: the Pointer Unit: the buttons released on every computer, the held desk buttons stale, the pointer recentred, the hit
test made. -/
def State.restartPointer (s : State) : State := (allComps.foldl State.releaseButtons s).markStale.recentre.makeHitTest

/-- R166: the desk is AWAKE with no notice; from ASLEEP every screen leaves forced standby. -/
def State.restartDesk (s : State) : State :=
  let awake := s.setWpc { s.wpc with desk := .awake, awaited := 0, deskDeadline := none }
  if s.wpc.desk = .asleep then allScreens.foldl State.leaveForced awake else awake

/-- R182, step 4: the blocks in the order of the Block overview (assumption log 9). -/
def State.restartBlocks (s : State) : State :=
  let s := s.setHks s.hks.restarted
  let s := s.restartKeys
  let s := s.setFcu .reset
  let s := s.restartPointer
  let s := s.restartDesk.reevaluateScreens State.reevaluate
  s.deriveLeds

/-- R182: RESTART. Its reply stands before every notice of the blocks, so it does not go through `State.execute`. A payload
that is not empty is refused and nothing is restarted. -/
def State.restart (t : Time) (s : State) : State :=
  match (s.at t).clp.inbound with
  | [] => s.at t
  | r :: _ =>
    if r.kind = 0x16 then
      if r.frameOk ∧ r.body = [] then ((s.at t).setClp ((s.at t).clp.restarted r)).restartBlocks
      else State.reply r (s.at t, .bare .badLength)
    else s.at t

/-- RESTART (R182), kind 0x16. -/
def execRestart (t : Time) (s : State) : Host.Outcome State Fault Refusal := .next (s.restart t)

end Sys2Proof.Machine
end

