-- ==== Sys2Proof/Machine/Dispatch.lean ====
section
/-! DEFINITION. Dispatch.lean: the meaning of each command, one arm per row of spec/opcode_table.json. -/

namespace Sys2Proof.Machine

-- exec is a command's effect on everything but the queue of waiting commands.
def exec (i : Instr) (s : State) : Host.Outcome State Fault Refusal :=
  match i with
  | .fullReset t => Sys2Proof.Machine.execFullReset t s
  | .deviceAttach t p => Sys2Proof.Machine.execDeviceAttach t p s
  | .enumerationEnd t p offers => Sys2Proof.Machine.execEnumerationEnd t p offers s
  | .enumerationDeadlineExpiry t p => Sys2Proof.Machine.execEnumerationDeadlineExpiry t p s
  | .deviceDetach t p => Sys2Proof.Machine.execDeviceDetach t p s
  | .keyboardReport t p bytes => Sys2Proof.Machine.execKeyboardReport t p bytes s
  | .pointerReport t p bytes => Sys2Proof.Machine.execPointerReport t p bytes s
  | .tapDeadlineExpiry t => Sys2Proof.Machine.execTapDeadlineExpiry t s
  | .commandDeadlineExpiry t => Sys2Proof.Machine.execCommandDeadlineExpiry t s
  | .guardDeadlineExpiry t => Sys2Proof.Machine.execGuardDeadlineExpiry t s
  | .dwellDeadlineExpiry t => Sys2Proof.Machine.execDwellDeadlineExpiry t s
  | .busPowerPresent t c => Sys2Proof.Machine.execBusPowerPresent t c s
  | .busPowerLost t c => Sys2Proof.Machine.execBusPowerLost t c s
  | .busReset t c => Sys2Proof.Machine.execBusReset t c s
  | .descriptorRequest t c which => Sys2Proof.Machine.execDescriptorRequest t c which s
  | .addressAssigned t c address => Sys2Proof.Machine.execAddressAssigned t c address s
  | .configuration1Selected t c => Sys2Proof.Machine.execConfiguration1Selected t c s
  | .configuration0Selected t c number => Sys2Proof.Machine.execConfiguration0Selected t c number s
  | .busIdle t c => Sys2Proof.Machine.execBusIdle t c s
  | .resumeByComputer t c => Sys2Proof.Machine.execResumeByComputer t c s
  | .resumeCompletes t c => Sys2Proof.Machine.execResumeCompletes t c s
  | .setRemoteWake t c => Sys2Proof.Machine.execSetRemoteWake t c s
  | .clearRemoteWake t c => Sys2Proof.Machine.execClearRemoteWake t c s
  | .poll t c acknowledged => Sys2Proof.Machine.execPoll t c acknowledged s
  | .wakeAttemptDeadlineExpiry t c => Sys2Proof.Machine.execWakeAttemptDeadlineExpiry t c s
  | .deskDeadlineExpiry t => Sys2Proof.Machine.execDeskDeadlineExpiry t s
  | .holdDeadlineExpiry t scr => Sys2Proof.Machine.execHoldDeadlineExpiry t scr s
  | .signalAcquired t h width height => Sys2Proof.Machine.execSignalAcquired t h width height s
  | .modeChanged t h width height => Sys2Proof.Machine.execModeChanged t h width height s
  | .signalLost t h => Sys2Proof.Machine.execSignalLost t h s
  | .frameStart t scr => Sys2Proof.Machine.execFrameStart t scr s
  | .pollTick t => Sys2Proof.Machine.execPollTick t s
  | .blinkEdge t => Sys2Proof.Machine.execBlinkEdge t s
  | .probeCompletes t acknowledged => Sys2Proof.Machine.execProbeCompletes t acknowledged s
  | .panelReadCompletes t acknowledged low high => Sys2Proof.Machine.execPanelReadCompletes t acknowledged low high s
  | .panelWriteCompletes t acknowledged => Sys2Proof.Machine.execPanelWriteCompletes t acknowledged s
  | .spiSelect t => Sys2Proof.Machine.execSpiSelect t s
  | .put t => Sys2Proof.Machine.execPut t s
  | .putDeselect t bytes => Sys2Proof.Machine.execPutDeselect t bytes s
  | .take t => Sys2Proof.Machine.execTake t s
  | .takeDeselect t clocked => Sys2Proof.Machine.execTakeDeselect t clocked s
  | .otherOpeningByte t bytes => Sys2Proof.Machine.execOtherOpeningByte t bytes s
  | .unknownRequest t => Sys2Proof.Machine.execUnknownRequest t s
  | .setComputer t => Sys2Proof.Machine.execSetComputer t s
  | .setHead t => Sys2Proof.Machine.execSetHead t s
  | .placeScreen t => Sys2Proof.Machine.execPlaceScreen t s
  | .setPointer t => Sys2Proof.Machine.execSetPointer t s
  | .setHotkeyTiming t => Sys2Proof.Machine.execSetHotkeyTiming t s
  | .writeHotkey t => Sys2Proof.Machine.execWriteHotkey t s
  | .writeRule t => Sys2Proof.Machine.execWriteRule t s
  | .setBorderColours t => Sys2Proof.Machine.execSetBorderColours t s
  | .setPowerTiming t => Sys2Proof.Machine.execSetPowerTiming t s
  | .writeTile t => Sys2Proof.Machine.execWriteTile t s
  | .freeTile t => Sys2Proof.Machine.execFreeTile t s
  | .setChain t => Sys2Proof.Machine.execSetChain t s
  | .writePreset t => Sys2Proof.Machine.execWritePreset t s
  | .applyPreset t => Sys2Proof.Machine.execApplyPreset t s
  | .flipTile t => Sys2Proof.Machine.execFlipTile t s
  | .setFocus t => Sys2Proof.Machine.execSetFocus t s
  | .setLock t => Sys2Proof.Machine.execSetLock t s
  | .wakeComputer t => Sys2Proof.Machine.execWakeComputer t s
  | .deskSleep t => Sys2Proof.Machine.execDeskSleep t s
  | .deskWake t => Sys2Proof.Machine.execDeskWake t s
  | .scanPanels t => Sys2Proof.Machine.execScanPanels t s
  | .restart t => Sys2Proof.Machine.execRestart t s
  | .readComputer t => Sys2Proof.Machine.execReadComputer t s
  | .readScreen t => Sys2Proof.Machine.execReadScreen t s
  | .readTile t => Sys2Proof.Machine.execReadTile t s
  | .readFocus t => Sys2Proof.Machine.execReadFocus t s
  | .readHead t => Sys2Proof.Machine.execReadHead t s
  | .readDesk t => Sys2Proof.Machine.execReadDesk t s
  | .readPanels t => Sys2Proof.Machine.execReadPanels t s
  | .readEntry t => Sys2Proof.Machine.execReadEntry t s

end Sys2Proof.Machine
end

