-- ==== Sys2Proof/Safety.lean ====
section
/-! DEFINITION. Safety.lean: what counts as a safe run, and the laws of the records that the spec states for every reachable
state, in the terms the statements use. -/

namespace Sys2Proof

/-- A step from s answers a next state: the block stops neither by a fault nor by a refusal. -/
def StepRuns (s : Machine.State) : Prop := ∃ t, Machine.step s = .next t

/-- Every one of the first n steps from s answers a next state. -/
def RunsFor : Nat → Machine.State → Prop
  | 0, _ => True
  | n + 1, s => ∃ t, Machine.step s = .next t ∧ RunsFor n t

namespace Machine

/-! ## Laws of the records -/

/-- R57: a pending target exists only while the lock is NONE, the guard is not running and park is clear, and it never names
the focus computer. -/
def Fcu.PendingTargetLaw (f : Fcu) : Prop :=
  ∀ p, f.pending = some p → f.lock = .none ∧ f.guard = none ∧ f.park = none ∧ p.target ≠ f.focus

/-- R109, R45, R52: a report queue holds at most 16 entries; a port outside the accepting states holds no entries and an empty
key set, and is a member of no held key entry. -/
def State.ReportQueueLaw (s : State) : Prop :=
  (∀ c : Comp, (s.comp c).queue.length ≤ 16 ∧
    ((s.comp c).port.accepting = false → (s.comp c).queue = [] ∧ (s.comp c).keySet = [])) ∧
  ∀ k ∈ s.rtf.held, ∀ c : Comp, k.names c = true → (s.comp c).port.accepting = true

/-- R20, R23: the hold buffer holds at most 8 events and none exactly in IDLE; the swallowed-key list at most 4 entries. -/
def Hks.SequencerLaw (h : Hks) : Prop := h.hold.length ≤ 8 ∧ (h.seq = .idle ↔ h.hold = []) ∧ h.swallowed.length ≤ 4

/-- R155: the awaited set is empty in AWAKE, and the desk deadline is present exactly in SLEEP REQUESTED. -/
def Wpc.DeskRecordLaw (w : Wpc) : Prop :=
  (w.desk = .awake → w.awaited = 0) ∧ (w.desk = .sleepRequested ↔ w.deskDeadline.isSome)

/-- R107, R150: a port is RESUMING exactly while a wake attempt for it is outstanding, and only with its remote-wake permission
set. -/
def State.WakeAttemptLaw (s : State) : Prop :=
  ∀ c : Comp, ((s.comp c).port = .resuming ↔ s.wpc.wakes[c].isSome) ∧
    ((s.comp c).port = .resuming → (s.comp c).remoteWake = true)

/-- R176, R177, R179: at most 4 requests hold places, and the frames and the reservations together fill at most the 32 slots
of the outbound queue. -/
def Clp.LinkLaw (c : Clp) : Prop := c.places ≤ 4 ∧ c.outbound.length + c.places ≤ 32

/-- R48: a usage is in a computer's key set exactly when an entry of the held key table with that usage names the computer, and
it is there once. -/
def State.KeySetLaw (s : State) : Prop :=
  ∀ c : Comp, (s.comp c).keySet.Nodup ∧
    ∀ u : Byte, u ∈ (s.comp c).keySet ↔ ∃ k ∈ s.rtf.held, k.usage = u ∧ k.names c = true

/-- R51: each focus member present in the held key table names the focus computer. -/
def State.FocusMemberLaw (s : State) : Prop := ∀ k ∈ s.rtf.held, ∀ c, k.focusMember = some c → c = s.fcu.focus

/-- R127: what the kind of a record holds to, given its rectangle. -/
def TileKind.Lawful (rect : Rect) : TileKind → Prop
  | .single _ _ _ _ .whole border => border ≤ 8
  | .single _ _ _ _ (.crop r) border => border ≤ 8 ∧ 1 ≤ r.w ∧ 1 ≤ r.h ∧ r.x + r.w ≤ 2560 ∧ r.y + r.h ≤ 1600
  | .grid columns rows cells border =>
    border ≤ 8 ∧ 1 ≤ columns ∧ columns ≤ 4 ∧ 1 ≤ rows ∧ rows ≤ 4 ∧ columns ≤ rect.w ∧ rows ≤ rect.h ∧
      cells.length = columns * rows
  | .fill _ => True

/-- R127, R128: a record that WRITE TILE can have written. -/
def Tile.Lawful (tile : Tile) : Prop := tile.rect.writable = true ∧ tile.kind.Lawful tile.rect

/-- R127: every WRITTEN record is lawful. -/
def Lco.TileLaw (l : Lco) : Prop := ∀ (r : TileId) (tile : Tile), l.tiles[r] = some tile → tile.Lawful

/-- R130: from a start, END is reached within n records, each of them WRITTEN and within a size. -/
def Lco.ChainEnds (l : Lco) (w h : Nat) : Nat → Option TileId → Prop
  | _, none => True
  | 0, some _ => False
  | n + 1, some r => ∃ tile, l.tiles[r] = some tile ∧ tile.rect.within w h = true ∧ l.ChainEnds w h n tile.next

/-- R130: every chain, active or pending, ends within 32 records, each WRITTEN and within its screen's size, and a record
belongs to at most one screen's chains. -/
def Lco.ChainLaw (l : Lco) : Prop :=
  (∀ (scr : ScreenId) (start : Option TileId),
    (l.screens[scr].active = start ∨ l.screens[scr].pending = some start) →
      l.ChainEnds l.screens[scr].rect.w l.screens[scr].rect.h 32 start) ∧
  ∀ (r : TileId) (scr other : ScreenId), l.inChains scr r = true → l.inChains other r = true → scr = other

/-- R124: an origin and size that a screen may have. -/
def Rect.Placeable (r : Rect) : Prop :=
  640 ≤ r.w ∧ r.w ≤ 2560 ∧ 480 ≤ r.h ∧ r.h ≤ 1600 ∧ r.x + r.w ≤ 16384 ∧ r.y + r.h ≤ 16384

/-- R124, R125: some screen is placed, every screen lies on the canvas, no two placed screens share a point, and a screen that
is not placed has no chain. -/
def Lco.CanvasLaw (l : Lco) : Prop :=
  (∃ scr : ScreenId, l.screens[scr].placed = true) ∧
  (∀ scr : ScreenId, l.screens[scr].rect.Placeable ∧
    (l.screens[scr].placed = false → l.screens[scr].active = none ∧ l.screens[scr].pending = none)) ∧
  ∀ scr other : ScreenId, scr ≠ other → l.screens[scr].placed = true → l.screens[other].placed = true →
    l.screens[scr].rect.overlaps l.screens[other].rect = false

/-- R80: the pointer lies in the rectangle of a placed screen. -/
def State.PointerLaw (s : State) : Prop :=
  ∃ scr : ScreenId, s.lco.screens[scr].placed = true ∧ s.lco.screens[scr].rect.contains s.ptu.px s.ptu.py = true

/-! ## Terms of the statements -/

/-- R176, R178: the oldest request has this kind, tag and payload in a whole frame, and `rest` waits behind it. -/
def State.Asks (s : State) (kind tag : Byte) (payload : List Byte) (rest : List Request) : Prop :=
  payload.length ≤ 60 ∧
    s.clp.inbound =
      { kind := kind, tag := tag, lengthByte := byte payload.length, body := payload, count := payload.length } :: rest

/-- R177 to R179: the oldest request, of a kind below 0x80, is answered by a frame at the end of the outbound queue, its kind
the request's plus 0x80 and its tag the request's, and leaves its place. The payload's first byte is the status. -/
def State.answered (kind tag : Byte) (rest : List Request) (payload : List Byte) (s : State) : State :=
  { s with clp := { s.clp with
      inbound := rest
      outbound := s.clp.outbound ++ [{ kind := kind + 0x80, tag := tag, payload := payload }] } }

/-- A record but for its showing field and its flip pending, which flips change (R136). -/
def Tile.fixed (tile : Tile) : Tile :=
  match tile.kind with
  | .single p a _ _ v b => { tile with kind := .single p a .primary false v b }
  | _ => tile

/-- R133 to R135: what the applying of chains and flips leaves of the layout. -/
def Lco.SameLook (l l' : Lco) : Prop :=
  l' = { l with screens := l'.screens, tiles := l'.tiles } ∧
  (∀ scr : ScreenId, l'.screens[scr].placed = l.screens[scr].placed ∧ l'.screens[scr].rect = l.screens[scr].rect ∧
    l'.screens[scr].alwaysOn = l.screens[scr].alwaysOn ∧ l'.screens[scr].background = l.screens[scr].background) ∧
  ∀ r : TileId, l'.tiles[r].map Tile.fixed = l.tiles[r].map Tile.fixed

/-- What the re-evaluations that follow an event may change where no GLIDE request is made at once (R89, R133, R134, R162,
R170): the dwell and the park, the hit fields, the chains and flips of screens in STANDBY, power states, the panels' due
writes, and notices queued after those already there. Everything else is as it was. -/
def State.FollowsOn (s t : State) : Prop :=
  t = { s with
    fcu := { s.fcu with pending := t.fcu.pending, park := t.fcu.park }
    ptu := { s.ptu with hitTile := t.ptu.hitTile, hit := t.ptu.hit }
    lco := t.lco
    wpc := { s.wpc with power := t.wpc.power }
    psc := { t.psc with scanner := s.psc.scanner }
    clp := { s.clp with outbound := t.clp.outbound, lost := t.clp.lost } } ∧
  s.lco.SameLook t.lco ∧ s.clp.outbound <+: t.clp.outbound ∧
  t.psc.panels.map Panel.address = s.psc.panels.map Panel.address

/-- The commands of the desk ports, and full reset: the only ones that write a desk port record (R1). -/
def writesDeskPorts : Instr → Bool
  | .fullReset .. => true
  | .deviceAttach .. => true
  | .enumerationEnd .. => true
  | .enumerationDeadlineExpiry .. => true
  | .deviceDetach .. => true
  | .keyboardReport .. => true
  | .pointerReport .. => true
  | _ => false

/-- The commands that may clear a hard lock (R74, R75, R78, R79): full reset, RESTART, SET LOCK, a forced SET FOCUS, and the
two that hand on key events, which may run the commands UNLOCK and LOCK TOGGLE. -/
def mayUnlock : Instr → Bool
  | .fullReset .. => true
  | .keyboardReport .. => true
  | .deviceDetach .. => true
  | .setFocus .. => true
  | .setLock .. => true
  | .restart .. => true
  | _ => false

/-- The kind of the request that a request command executes (11_control_link.md, Requests). -/
def requestKind : Instr → Option Byte
  | .setComputer .. => some 0x01
  | .setHead .. => some 0x02
  | .placeScreen .. => some 0x03
  | .setPointer .. => some 0x04
  | .setHotkeyTiming .. => some 0x05
  | .writeHotkey .. => some 0x06
  | .writeRule .. => some 0x07
  | .setBorderColours .. => some 0x08
  | .setPowerTiming .. => some 0x09
  | .writeTile .. => some 0x0A
  | .freeTile .. => some 0x0B
  | .setChain .. => some 0x0C
  | .writePreset .. => some 0x0D
  | .applyPreset .. => some 0x0E
  | .flipTile .. => some 0x0F
  | .setFocus .. => some 0x10
  | .setLock .. => some 0x11
  | .wakeComputer .. => some 0x12
  | .deskSleep .. => some 0x13
  | .deskWake .. => some 0x14
  | .scanPanels .. => some 0x15
  | .restart .. => some 0x16
  | .readComputer .. => some 0x17
  | .readScreen .. => some 0x18
  | .readTile .. => some 0x19
  | .readFocus .. => some 0x1A
  | .readHead .. => some 0x1B
  | .readDesk .. => some 0x1C
  | .readPanels .. => some 0x1D
  | .readEntry .. => some 0x1E
  | _ => none

end Machine

end Sys2Proof
end

