-- ==== Sys2Proof/Certificates/Slice0/Obligations.lean ====
section
/-! DEFINITION. Obligations.lean: the statements for the provers. Each names in its docstring the rules it formalises. A
command's time is taken as log 1 says: `s.at t` is s at the later of its clock and t, nothing else of it changed. -/

open Sys2Proof Sys2Proof.Machine

/-! ## The queue of commands -/

/-- A step takes the command at the front of the queue and runs it with the queue's rest; with none waiting the block idles.
The queue is this model's (logs 2 and 4). -/
def Obligations.StepRunsTheFrontCommand : Prop :=
  (∀ (c : Instr) (rest : List Instr) (s : State), s.pending = c :: rest → step s = exec c { s with pending := rest }) ∧
  ∀ s : State, s.pending = [] → step s = .next s

/-- Every command completes in every state: no fault, no refusal. It takes nothing from the queue, the clock never goes back,
and so every run goes on (logs 1 to 3). -/
def Obligations.EveryCommandCompletes : Prop :=
  (∀ (c : Instr) (s : State), ∃ r, exec c s = .next r ∧ r.pending = s.pending ∧ s.clock ≤ r.clock) ∧
  ∀ (n : Nat) (s : State), RunsFor n s

/-! ## Full reset -/

/-- R15, R40, R55, R78, R98, R119, R140, R149, R165, R168, R173, R183: the values full reset leaves, whatever the state before. The
clock goes on (log 5), and the poll and blink times count from the reset. A transaction on the panel bus goes on, and the scan's
first probe waits for it (of a probe: log 21). -/
def Obligations.FullResetValues : Prop :=
  ∀ (t : Time) (s : State), ∃ r, exec (.fullReset t) s = .next r ∧
    r.clock = max s.clock t ∧ r.epoch = r.clock ∧
    (∀ p : DeskPortId, r.diu[p] = .empty) ∧
    (∀ i : Fin 24, r.hks.table[i] =
      { enabled := false, kind := .chordMake, usage := 0x00, cond := { ctrl := .any, shift := .any, alt := .any, gui := .any },
        command := .hostCode, argument := 0 }) ∧
    r.hks = { table := r.hks.table, leader := none, tapWindow := 350, commandWindow := 2000, seq := .idle, hold := [],
              swallowed := [] } ∧
    (∀ i : Fin 32, r.rtf.rules[i] =
      { enabled := false, ports := 0xF, low := 0x00, high := 0xFF,
        cond := { ctrl := .any, shift := .any, alt := .any, gui := .any }, includeFocus := true, fixed := 0 }) ∧
    r.rtf.held = [] ∧
    r.fcu = { focus := 0, lock := .none, pending := none, guard := none, park := none, lastCause := .host } ∧
    r.ptu = { px := 960, py := 540, fx := 0, fy := 0, hitTile := { screen := 0, record := none, cell := none }, hit := none,
              stale := .replicate 4 0, speed := 16, dwell := 60, guard := 200 } ∧
    (∀ c : Comp, ∃ address answer, r.comp c =
      { dw := 1920, dh := 1080, wakeOnInput := true, wakeOnFocus := false, sleepsWithDesk := false, port := .detached,
        remoteWake := false, keySet := [], lastSnapshot := none, lastPointer := none, queue := [], owedKeyboard := false,
        owedPointer := false, merge := 0, address := address, answer := answer }) ∧
    (∀ h : HeadId, r.lco.heads[h] = { owner := none, dx := 0, dy := 0, size := none }) ∧
    (∀ scr : ScreenId, ∃ drawn, r.lco.screens[scr] =
      { placed := true, rect := { x := 1920 * scr.val, y := 0, w := 1920, h := 1080 }, alwaysOn := false,
        background := { red := 0, green := 0, blue := 0 }, active := none, pending := none, drawn := drawn }) ∧
    (∀ i : TileId, r.lco.tiles[i] = none) ∧
    r.lco.borders = { focus := { red := 255, green := 255, blue := 255 }, lock := { red := 255, green := 191, blue := 0 },
                      pending := { red := 0, green := 0, blue := 255 } } ∧
    (∀ n : PresetId, r.lco.presets[n] = none) ∧ r.lco.lastPreset = none ∧
    (∀ c : Comp, r.wpc.wakes[c] = none) ∧
    (∀ scr : ScreenId, r.wpc.power[scr] = .darkHold (r.clock + 30000)) ∧
    r.wpc = { wakes := r.wpc.wakes, desk := .awake, awaited := 0, deskDeadline := none, power := r.wpc.power,
              wakeTimeout := 3000, sleepTimeout := 15000, standbyHold := 30 } ∧
    r.psc = { panels := [], scanner := .scanning 0, bus := some (match s.psc.bus with
      | none => .probe 0
      | some (.probe a) => .earlierProbe a
      | some on => on) } ∧
    r.clp.inbound = [] ∧ r.clp.lost = false ∧ r.clp.spi = .idle ∧
    r.clp.outbound = { kind := 0x40, tag := 0, payload := [0] } ::
      allScreens.map (fun scr => { kind := 0x45, tag := 0, payload := [0, byte scr.val, 1, 0] })

/-- Every law of the records holds right after full reset. -/
def Obligations.ResetMeetsTheLaws : Prop :=
  State.reset.fcu.PendingTargetLaw ∧ State.reset.FocusMemberLaw ∧ State.reset.ReportQueueLaw ∧ State.reset.KeySetLaw ∧
  State.reset.hks.SequencerLaw ∧ State.reset.wpc.DeskRecordLaw ∧ State.reset.WakeAttemptLaw ∧ State.reset.clp.LinkLaw ∧
  State.reset.lco.CanvasLaw ∧ State.reset.lco.ChainLaw ∧ State.reset.lco.TileLaw ∧ State.reset.PointerLaw

/-! ## The laws every step keeps -/

/-- R57, R51: every step keeps the conditions of the pending target, and the focus members of the held key table naming the
focus computer. -/
def Obligations.EveryStepKeepsTheFocusLaws : Prop :=
  ∀ s t : State, step s = .next t →
    (s.fcu.PendingTargetLaw → t.fcu.PendingTargetLaw) ∧ (s.FocusMemberLaw → t.FocusMemberLaw)

/-- R109, R45, R52, R48: every step keeps the bounds of the report queues, the emptiness of ports outside the accepting states,
and each key set the one the held key table gives. -/
def Obligations.EveryStepKeepsThePortLaws : Prop :=
  ∀ s t : State, step s = .next t → (s.ReportQueueLaw → t.ReportQueueLaw) ∧ (s.KeySetLaw → t.KeySetLaw)

/-- R20, R23: every step keeps the sequencer's bounds, and its hold buffer empty exactly in IDLE. -/
def Obligations.EveryStepKeepsTheSequencerLaw : Prop :=
  ∀ s t : State, step s = .next t → s.hks.SequencerLaw → t.hks.SequencerLaw

/-- R155, R107, R150: every step keeps the desk sleep record lawful, and a port RESUMING exactly while a wake attempt for it is
outstanding. -/
def Obligations.EveryStepKeepsThePowerLaws : Prop :=
  ∀ s t : State, step s = .next t →
    (s.wpc.DeskRecordLaw → t.wpc.DeskRecordLaw) ∧ (s.WakeAttemptLaw → t.WakeAttemptLaw)

/-- R176, R177, R179: every step keeps the bounds of the link's two queues, so a reply always finds room. -/
def Obligations.EveryStepKeepsTheLinkLaw : Prop := ∀ s t : State, step s = .next t → s.clp.LinkLaw → t.clp.LinkLaw

/-- R124, R125, R127, R130: every step keeps the canvas, the chains and the tile records lawful. -/
def Obligations.EveryStepKeepsTheLayoutLaws : Prop :=
  ∀ s t : State, step s = .next t →
    (s.lco.CanvasLaw → t.lco.CanvasLaw) ∧ (s.lco.ChainLaw → t.lco.ChainLaw) ∧ (s.lco.TileLaw → t.lco.TileLaw)

/-- R80: with a lawful layout, every step keeps the pointer inside a placed screen. -/
def Obligations.EveryStepKeepsThePointerOnAScreen : Prop :=
  ∀ s t : State, step s = .next t → s.lco.CanvasLaw → s.lco.ChainLaw → s.lco.TileLaw → s.PointerLaw → t.PointerLaw

/-! ## Desk ports -/

/-- R2, R3, R5: attach, end of enumeration and the enumeration deadline, each with its DESK PORT notice; an event that does not
apply to the port's state changes nothing (log 3). -/
def Obligations.DeskPortEnumeration : Prop :=
  ∀ (t : Time) (p : DeskPortId) (s : State),
    let now := max s.clock t
    let entered (d : DeskPort) : State := { s.at t with diu := s.diu.set p d, clp := s.clp.queueNotice (.deskPort p d) }
    (s.diu[p] = .empty → exec (.deviceAttach t p) s = .next (entered (.enumerating (now + 1000)))) ∧
    (s.diu[p] ≠ .empty → exec (.deviceAttach t p) s = .next (s.at t)) ∧
    (∀ (deadline : Time) (o : Offers), s.diu[p] = .enumerating deadline →
      exec (.enumerationEnd t p o) s = .next (entered (
        if o.bootKeyboard then .keyboard 0 [] else if o.bootPointer then .pointer 0
        else .unsupported (if o.hub then .hub else .notBoot)))) ∧
    (∀ deadline : Time, s.diu[p] = .enumerating deadline →
      exec (.enumerationDeadlineExpiry t p) s =
        .next (if deadline ≤ now then entered (.unsupported .noResponse) else s.at t)) ∧
    ((∀ deadline, s.diu[p] ≠ .enumerating deadline) →
      (∀ o, exec (.enumerationEnd t p o) s = .next (s.at t)) ∧ exec (.enumerationDeadlineExpiry t p) s = .next (s.at t))

/-- R6 to R10: a desk port's report becomes its previous report, reduced. One that the rules ignore, or that equals the previous
report, changes nothing, nor does a report at a port in another state (log 3); one that only moves keys to other slots changes the
slot order alone. A report of several events does what a report of its first event alone does, and then what the report itself does
after that: its events come one at a time, in this order. A key report breaks keys in the previous report's slot order, then
modifiers in ascending order; then it makes modifiers in ascending order, then keys in its own slot order. A pointer report moves,
then breaks buttons, then makes them, each in ascending order; the wheel is last (O32). Within a report a key made joins in the
slot the new report gives it (log 17), and a key broken leaves. -/
def Obligations.DeskReportsBecomeThePreviousReport : Prop :=
  (∀ (t : Time) (p : DeskPortId) (s : State) (mods : Byte) (keys : List Byte), s.diu[p] = .keyboard mods keys →
    (∀ bytes : List Byte, bytes.length < 8 → exec (.keyboardReport t p bytes) s = .next (s.at t)) ∧
    ∀ (m reserved k0 k1 k2 k3 k4 k5 : Byte) (more : List Byte),
      let slots := [k0, k1, k2, k3, k4, k5]
      let reduced := (slots.filter (fun u => decide (u ≠ 0) && !(decide (0xE0 ≤ u) && decide (u ≤ 0xE7)))).eraseDups
      let report := Instr.keyboardReport t p (m :: reserved :: (slots ++ more))
      ((∃ u ∈ slots, 1 ≤ u ∧ u ≤ 3) → exec report s = .next (s.at t)) ∧
      ((∀ u ∈ slots, ¬ (1 ≤ u ∧ u ≤ 3)) →
        (∃ r, exec report s = .next r ∧ r.diu = s.diu.set p (.keyboard m reduced)) ∧
        (m = mods → reduced = keys → exec report s = .next (s.at t)))) ∧
  (∀ (t : Time) (p : DeskPortId) (s : State) (mods m : Byte) (keys new : List Byte), s.diu[p] = .keyboard mods keys →
    let clean (list : List Byte) : Prop := list.length ≤ 6 ∧ list.Nodup ∧ ∀ u ∈ list, 4 ≤ u ∧ isModifier u = false
    let report (m : Byte) (list : List Byte) : Instr :=
      .keyboardReport t p (m :: 0 :: (list ++ List.replicate (6 - list.length) 0))
    let first (one : Instr) : Prop := ∃ v, exec one s = .next v ∧ exec (report m new) s = exec (report m new) v
    clean keys → clean new →
      (∀ before u after, keys = before ++ u :: after → (∀ k ∈ before, k ∈ new) → u ∉ new →
        first (report mods (before ++ after))) ∧
      ((∀ k ∈ keys, k ∈ new) →
        (∀ k : Fin 8, (mods &&& ~~~ m).getLsbD k.val = true → (∀ j < k, (mods &&& ~~~ m).getLsbD j.val = false) →
          first (report (mods &&& ~~~ (1#8 <<< k.val)) keys)) ∧
        (∀ k : Fin 8, mods &&& ~~~ m = 0 → (m &&& ~~~ mods).getLsbD k.val = true →
          (∀ j < k, (m &&& ~~~ mods).getLsbD j.val = false) → first (report (mods ||| (1#8 <<< k.val)) keys)) ∧
        (m = mods →
          (∀ before u after, new = before ++ u :: after → (∀ k ∈ before, k ∈ keys) → u ∉ keys →
            first (report mods (keys.take before.length ++ u :: keys.drop before.length))) ∧
          ((∀ k ∈ new, k ∈ keys) →
            exec (report m new) s = .next { s.at t with diu := s.diu.set p (.keyboard m new) })))) ∧
  (∀ (t : Time) (p : DeskPortId) (s : State) (held : Buttons), s.diu[p] = .pointer held →
    (∀ bytes : List Byte, bytes.length < 3 → exec (.pointerReport t p bytes) s = .next (s.at t)) ∧
    ∀ (b dx dy : Byte) (more : List Byte),
      (∃ r, exec (.pointerReport t p (b :: dx :: dy :: more)) s = .next r ∧ r.diu = s.diu.set p (.pointer (b.setWidth 5))) ∧
      (b.setWidth 5 = held → dx = 0 → dy = 0 → more.headD 0 = 0 →
        exec (.pointerReport t p (b :: dx :: dy :: more)) s = .next (s.at t))) ∧
  (∀ (t : Time) (p : DeskPortId) (s : State) (held : Buttons) (b dx dy w : Byte), s.diu[p] = .pointer held →
    let new : Buttons := b.setWidth 5
    let first (buttons : Buttons) (x y : Byte) : Prop := ∃ v,
      exec (.pointerReport t p [buttons.setWidth 8, x, y, 0]) s = .next v ∧
      exec (.pointerReport t p [b, dx, dy, w]) s = exec (.pointerReport t p [b, 0, 0, w]) v
    (¬ (dx = 0 ∧ dy = 0) → first held dx dy) ∧
    (dx = 0 → dy = 0 → ∀ k : Fin 5,
      ((held &&& ~~~ new).getLsbD k.val = true → (∀ j < k, (held &&& ~~~ new).getLsbD j.val = false) →
        first (held &&& ~~~ (1#5 <<< k.val)) 0 0) ∧
      (held &&& ~~~ new = 0 → (new &&& ~~~ held).getLsbD k.val = true →
        (∀ j < k, (new &&& ~~~ held).getLsbD j.val = false) → first (held ||| (1#5 <<< k.val)) 0 0))) ∧
  (∀ (t : Time) (p : DeskPortId) (s : State) (bytes : List Byte),
    ((∀ mods keys, s.diu[p] ≠ .keyboard mods keys) → exec (.keyboardReport t p bytes) s = .next (s.at t)) ∧
    ((∀ held, s.diu[p] ≠ .pointer held) → exec (.pointerReport t p bytes) s = .next (s.at t))) ∧
  ∀ (m u : Byte) (before after : List Byte), isModifier u = false → u ∉ before → u ∉ after →
    (DeskPort.keyboard m (before ++ after)).press (before ++ u :: after) u = .keyboard m (before ++ u :: after) ∧
    (DeskPort.keyboard m (before ++ u :: after)).release u = .keyboard m (before ++ after)

/-- R4, R12, R37: a detach from KEYBOARD or POINTER acts as a report that holds nothing, so that each key and button held hands on
its break to the computers as in O15, O17 and O33; then the port is EMPTY, with its DESK PORT notice, and nothing of it stays in
the hold buffer or the swallowed-key list. From a port that held no key and no button it is the notice and the forgetting alone.
A detach from an EMPTY port changes nothing (log 3). -/
def Obligations.DetachForgetsTheDevice : Prop :=
  ∀ (t : Time) (p : DeskPortId) (s : State),
    let gone (v : State) : State :=
      let hold := v.hks.hold.filter (fun e => decide (e.port ≠ p))
      { v with
        diu := v.diu.set p .empty
        hks := { v.hks with
          hold := hold, swallowed := v.hks.swallowed.filter (fun k => decide (k.1 ≠ p))
          seq := if hold = [] then .idle else v.hks.seq }
        clp := v.clp.queueNotice (.deskPort p .empty) }
    (s.diu[p] = .empty → exec (.deviceDetach t p) s = .next (s.at t)) ∧
    (s.diu[p] ≠ .empty → ∃ r, exec (.deviceDetach t p) s = .next r ∧ r.diu = s.diu.set p .empty ∧
      (∀ e ∈ r.hks.hold, e.port ≠ p) ∧ (∀ k ∈ r.hks.swallowed, k.1 ≠ p)) ∧
    ((∃ mods keys, s.diu[p] = .keyboard mods keys) →
      ∃ v, exec (.keyboardReport t p [0, 0, 0, 0, 0, 0, 0, 0]) s = .next v ∧ exec (.deviceDetach t p) s = .next (gone v)) ∧
    ((∃ held, s.diu[p] = .pointer held) →
      ∃ v, exec (.pointerReport t p [0, 0, 0]) s = .next v ∧ exec (.deviceDetach t p) s = .next (gone v)) ∧
    ((s.diu[p] = .keyboard 0 [] ∨ s.diu[p] = .pointer 0 ∨ (∃ d, s.diu[p] = .enumerating d) ∨ ∃ w, s.diu[p] = .unsupported w) →
      exec (.deviceDetach t p) s = .next (gone (s.at t)))

/-! ## Keys -/

/-- R8, R11, R13, R24, R25, R41, R43 to R48, R50, R152. A key or a modifier made, whatever else is held, which no hotkey takes,
goes to the Route Filter, and so does its break where it is neither swallowed nor a held make's, in every state of the desk. The
Route Filter gives a make to the first matching rule's destination, or to the focus computer where no rule matches: an entry names
those of its computers whose ports take keys, each has the usage in its key set and is handed the snapshot where that changed, and
each that sleeps is woken where its wake-on-input flag is set, in ascending computer order (the order is log 20's). A break
removes the entry: each computer then named by no entry of that usage loses it and is handed the snapshot of what is left. Nothing
else changes. -/
def Obligations.KeysReachAndLeaveTheirDestination : Prop :=
  (∀ (t : Time) (p : DeskPortId) (u mods : Byte) (before after : List Byte) (s : State), 4 ≤ u →
    let bit : Byte := 1#8 <<< (u.toNat - 0xE0)
    let pressed : Byte × List Byte :=
      if isModifier u then (mods ||| bit, before ++ after) else (mods, before ++ u :: after)
    let holding (list : Byte × List Byte) : State := { s.at t with diu := s.diu.set p (.keyboard list.1 list.2) }
    let report (list : Byte × List Byte) : Instr :=
      .keyboardReport t p (list.1 :: 0 :: (list.2 ++ List.replicate (6 - list.2.length) 0))
    (isModifier u = true → mods &&& bit = 0) →
    pressed.2.length ≤ 6 → pressed.2.Nodup → (∀ k ∈ pressed.2, 4 ≤ k ∧ isModifier k = false) →
    (s.diu[p] = .keyboard mods (before ++ after) → s.wpc.desk = .awake → s.hks.seq = .idle → s.hks.leader ≠ some u →
      (∀ i : Fin 24, ¬ (s.hks.table[i].enabled = true ∧ s.hks.table[i].kind ≠ .sequence ∧ s.hks.table[i].usage = u ∧
        s.hks.table[i].cond.met (holding pressed).deskModifiers = true)) →
      exec (report pressed) s = .next ((holding pressed).route { port := p, make := true, usage := u })) ∧
    (s.diu[p] = .keyboard pressed.1 pressed.2 → (∀ e ∈ s.hks.hold, ¬ (e.port = p ∧ e.usage = u)) →
      (p, u) ∉ s.hks.swallowed →
      exec (report (mods, before ++ after)) s =
        .next ((holding (mods, before ++ after)).route { port := p, make := false, usage := u }))) ∧
  (∀ (p : DeskPortId) (u : Byte) (s : State),
    let make : KeyEvent := { port := p, make := true, usage := u }
    let rule := s.rtf.rules.toList.find? (fun r => r.enabled && r.ports.getLsbD p.val && decide (r.low ≤ u) &&
      decide (u ≤ r.high) && r.cond.met s.deskModifiers)
    let includeFocus := (rule.map RouteRule.includeFocus).getD true
    let fixed := (rule.map RouteRule.fixed).getD 0
    let toFocus := includeFocus && (s.comp s.fcu.focus).port.accepting
    let named (c : Comp) : Bool := (toFocus && decide (c = s.fcu.focus)) || (fixed.getLsbD c.val && (s.comp c).port.accepting)
    let asleep (c : Comp) : Bool := decide ((s.comp c).port = .suspended) || decide ((s.comp c).port = .resuming)
    (includeFocus = false ∧ fixed = 0 → s.route make = s) ∧
    (¬ (includeFocus = false ∧ fixed = 0) →
      ((∃ k ∈ s.rtf.held, k.port = p ∧ k.usage = u) → s.route make = (s.route { make with make := false }).route make) ∧
      ((∀ k ∈ s.rtf.held, ¬ (k.port = p ∧ k.usage = u)) → s.KeySetLaw →
        ∃ members cps, (∀ c : Comp, members.getLsbD c.val = (fixed.getLsbD c.val && (s.comp c).port.accepting)) ∧
          (∀ c : Comp, cps[c] = if named c = true ∧ u ∉ (s.comp c).keySet
            then ({ s.comp c with keySet := (s.comp c).keySet ++ [u] }).takeSnapshot (snapshotOf ((s.comp c).keySet ++ [u]))
            else s.comp c) ∧
          s.route make = (allComps.filter (fun c => named c && asleep c)).foldl
            (fun v c => if (v.comp c).wakeOnInput = true then v.wake State.reevaluate c .input else v)
            { s with cps := cps, rtf := { s.rtf with held := s.rtf.held ++
              [{ port := p, usage := u, focusMember := if toFocus then some s.fcu.focus else none, fixed := members }] } }))) ∧
  ∀ (p : DeskPortId) (u : Byte) (s : State), s.KeySetLaw →
    let held := s.rtf.held.filter (fun k => !(decide (k.port = p) && decide (k.usage = u)))
    ∃ cps, s.route { port := p, make := false, usage := u } = { s with rtf := { s.rtf with held := held }, cps := cps } ∧
      ∀ c : Comp,
        let keys := (s.comp c).keySet.filter (fun v => held.any (fun k => decide (k.usage = v) && k.names c))
        cps[c] = if keys = (s.comp c).keySet then s.comp c
          else ({ s.comp c with keySet := keys }).takeSnapshot (snapshotOf keys)

/-- R16, R17, R23, R25 to R28, R38, R39, R60, R148. In IDLE the make of a key goes to the lowest-indexed chord entry that matches.
A CHORD MAKE entry swallows it and fires at once. A CHORD BREAK entry withholds it and fires at its break; another make before
that abandons the chord, and both makes go to the Route Filter. A condition is met where each REQUIRED modifier is in the desk
modifier state (O56) and each ABSENT one is not; ANY is met either way. An entry that fires has its command carried out and then
sends the HOTKEY notice with the outcome; the last clauses go through the catalogue of commands. WAKE of a RESUMING port is stated
where its permission is set, as R107 has it. -/
def Obligations.ChordMakeIsSwallowedAndReported : Prop :=
  (∀ (t : Time) (p : DeskPortId) (m u : Byte) (s : State), 4 ≤ u → isModifier u = false →
    s.diu[p] = .keyboard m [] → s.wpc.desk = .awake →
    let down := Instr.keyboardReport t p [m, 0, u, 0, 0, 0, 0, 0]
    let held (hks : Hks) : State := { s.at t with diu := s.diu.set p (.keyboard m [u]), hks := hks }
    let make : KeyEvent := { port := p, make := true, usage := u }
    let swallowed := (if s.hks.swallowed.length < 4 then s.hks.swallowed else s.hks.swallowed.drop 1) ++ [(p, u)]
    (∀ i : Fin 24, s.hks.seq = .idle → s.hks.leader ≠ some u →
      let e := s.hks.table[i]
      e.enabled = true → e.usage = u → e.cond.met s.deskModifiers = true →
      (∀ j : Fin 24, j < i → ¬ (s.hks.table[j].enabled = true ∧ s.hks.table[j].kind ≠ .sequence ∧ s.hks.table[j].usage = u ∧
        s.hks.table[j].cond.met s.deskModifiers = true)) →
      (e.kind = .chordMake →
        exec down s = .next ((held { s.hks with swallowed := swallowed }).fire i e.command e.argument) ∧
        (e.command = .hostCode → exec down s = .next { held { s.hks with swallowed := swallowed } with
          clp := s.clp.queueNotice (.hotkey (byte i.val) 0 0x0D e.argument) })) ∧
      (e.kind = .chordBreak → s.hks.hold = [] →
        exec down s = .next (held { s.hks with hold := [make], seq := .chordHeld i e.command e.argument }))) ∧
    (∀ i c a, s.hks.seq = .chordHeld i c a → exec down s = .next
      ((s.hks.hold.foldl State.route (held { s.hks with seq := .idle, hold := [] })).route make))) ∧
  (∀ (t : Time) (p : DeskPortId) (m u : Byte) (i : Fin 24) (c : Command) (a : Byte) (s : State), isModifier u = false →
    s.diu[p] = .keyboard m [u] → s.hks.seq = .chordHeld i c a → s.hks.hold = [{ port := p, make := true, usage := u }] →
    (p, u) ∉ s.hks.swallowed →
    exec (.keyboardReport t p [m, 0, 0, 0, 0, 0, 0, 0]) s = .next (State.fire i c a { s.at t with
      diu := s.diu.set p (.keyboard m []), hks := { s.hks with seq := .idle, hold := [] } })) ∧
  (∀ (c : ModCond) (held : BitVec 4), c.met held = true ↔
    ∀ part ∈ [(c.ctrl, 0), (c.shift, 1), (c.alt, 2), (c.gui, 3)],
      (part.1 = .required → held.getLsbD part.2 = true) ∧ (part.1 = .absent → held.getLsbD part.2 = false)) ∧
  (∀ (i : Fin 24) (c : Command) (a : Byte) (s : State),
    let done := s.runCommand c a
    s.fire i c a = { done.1 with clp := done.1.clp.queueNotice (.hotkey (byte i.val) (match done.2 with
      | .done => 0
      | .refusedLocked => 1
      | .ignored => 2) c.code a) }) ∧
  (∀ (a : Byte) (s : State),
    let f := s.fcu.focus
    let lock (l : Lock) : State := { s with
      fcu := { s.fcu with lock := l, pending := if l = .hard then none else s.fcu.pending }
      clp := s.clp.queueNotice (.focus f f 5 l s.fcu.park.isSome) }
    let left := lock (if s.deskButtons = 0 then .none else .soft)
    let attached (c : Comp) : Prop := c ≠ f ∧ (s.comp c).port ≠ .detached
    (∀ n : Comp,
      s.runCommand .select (byte n.val) = (if f = n then (s, .ignored) else if s.fcu.lock = .hard then (s, .refusedLocked)
        else (s.requestFocus n .hotkey false, .done)) ∧
      (attached n → (∀ d, attached d → (n - f).val ≤ (d - f).val) →
        s.runCommand .selectNext a = s.runCommand .select (byte n.val)) ∧
      (attached n → (∀ d, attached d → (f - n).val ≤ (f - d).val) →
        s.runCommand .selectPrev a = s.runCommand .select (byte n.val)) ∧
      ((s.comp n).port = .suspended → s.runCommand .wake (byte n.val) = (s.wake State.reevaluate n .hotkey, .done)) ∧
      ((s.comp n).port = .resuming → (s.comp n).remoteWake = true → s.runCommand .wake (byte n.val) = (s, .done)) ∧
      ((s.comp n).port ≠ .suspended → (s.comp n).port ≠ .resuming → s.runCommand .wake (byte n.val) = (s, .ignored))) ∧
    ((∀ n, ¬ attached n) → s.runCommand .selectNext a = (s, .ignored) ∧ s.runCommand .selectPrev a = (s, .ignored)) ∧
    s.runCommand .wakeFocus a = s.runCommand .wake (byte f.val) ∧
    s.runCommand .lock a = (if s.fcu.lock = .hard then (s, .ignored) else (lock .hard, .done)) ∧
    s.runCommand .unlock a = (if s.fcu.lock = .hard then (left, .done) else (s, .ignored)) ∧
    s.runCommand .lockToggle a = (if s.fcu.lock = .hard then left else lock .hard, .done) ∧
    s.runCommand .hostCode a = (s, .done) ∧
    (s.wpc.desk ≠ .awake → s.runCommand .deskSleep a = (s, .ignored)) ∧
    (∀ n : PresetId, s.lco.presets[n] = none → s.runCommand .preset (byte n.val) = (s, .ignored)) ∧
    (match s.lco.lastPreset.bind (fun n => (s.lco.presets[n]).bind Preset.next) with
      | some n => s.runCommand .presetNext a = s.runCommand .preset (byte n.val)
      | none => s.runCommand .presetNext a = (s, .ignored)) ∧
    (∀ r : TileId, (∀ tile p b sh fl v w, s.lco.tiles[r] = some tile → tile.kind = .single p (some b) sh fl v w →
      ∀ scr : ScreenId, r ∉ s.lco.activeChain scr) → s.runCommand .flip (byte r.val) = (s, .ignored))) ∧
  ∀ (t : Time) (a tag : Byte) (rest : List Request) (s : State),
    (s.wpc.desk = .awake → s.Asks 0x13 tag [] rest →
      (s.runCommand .deskSleep a).2 = .done ∧
      ∃ desk, exec (.deskSleep t) s = .next (((s.at t).runCommand .deskSleep a).1.answered 0x13 tag rest [0, desk])) ∧
    (∀ n : PresetId, s.lco.presets[n] ≠ none → s.Asks 0x0E tag [byte n.val] rest →
      (s.runCommand .preset (byte n.val)).2 = .done ∧
      ∃ failures focus, exec (.applyPreset t) s =
        .next (((s.at t).runCommand .preset (byte n.val)).1.answered 0x0E tag rest [0, failures, focus])) ∧
    ∀ (r : TileId) tile p b sh fl v w (scr : ScreenId), s.lco.tiles[r] = some tile →
      tile.kind = .single p (some b) sh fl v w → r ∈ s.lco.activeChain scr → s.Asks 0x0F tag [byte r.val] rest →
      (s.runCommand .flip (byte r.val)).2 = .done ∧
      ∃ showing pending, exec (.flipTile t) s =
        .next (((s.at t).runCommand .flip (byte r.val)).1.answered 0x0F tag rest [0, showing, pending])

/-- R25, R26, R29, R30, R32 to R34, R36: a leader press waits in FIRST TAP with its make held; the leader's two taps, each within
the tap window, arm the sequencer, and four events are held back from every computer. In FIRST TAP any other make fails the
sequence: the held events go to the Route Filter, and the make is taken as in IDLE. In ARMED the makes and breaks of modifiers are
held; the make of a key that the lowest-indexed matching SEQUENCE entry names discards what is held, is swallowed and fires the
entry; any other sends what is held, and itself after it, to the Route Filter, and so does an event that finds 8 events held. -/
def Obligations.TwoLeaderTapsArmTheSequencer : Prop :=
  (∀ (t : Time) (p : DeskPortId) (u : Byte) (s : State), 4 ≤ u → isModifier u = false → s.hks.leader = some u →
    s.wpc.desk = .awake → (p, u) ∉ s.hks.swallowed →
    let now := max s.clock t
    let make : KeyEvent := { port := p, make := true, usage := u }
    let release : KeyEvent := { port := p, make := false, usage := u }
    let down := Instr.keyboardReport t p [0, 0, u, 0, 0, 0, 0, 0]
    let up := Instr.keyboardReport t p [0, 0, 0, 0, 0, 0, 0, 0]
    let held (keys : List Byte) (hold : List KeyEvent) (seq : Sequencer) : State :=
      { s.at t with diu := s.diu.set p (.keyboard 0 keys), hks := { s.hks with hold := hold, seq := seq } }
    (s.diu[p] = .keyboard 0 [] → s.hks.hold = [] → s.hks.seq = .idle →
      exec down s = .next (held [u] [make] (.firstTap .firstDown (now + s.hks.tapWindow)))) ∧
    (∀ d, s.diu[p] = .keyboard 0 [u] → s.hks.hold = [make] → s.hks.seq = .firstTap .firstDown d →
      exec up s = .next (held [] [make, release] (.firstTap .firstUp (now + s.hks.tapWindow)))) ∧
    (∀ d, s.diu[p] = .keyboard 0 [] → s.hks.hold = [make, release] → s.hks.seq = .firstTap .firstUp d →
      exec down s = .next (held [u] [make, release, make] (.firstTap .secondDown (now + s.hks.tapWindow)))) ∧
    (∀ d, s.diu[p] = .keyboard 0 [u] → s.hks.hold = [make, release, make] → s.hks.seq = .firstTap .secondDown d →
      exec up s = .next (held [] [make, release, make, release] (.armed (now + s.hks.commandWindow))))) ∧
  (∀ (t : Time) (p : DeskPortId) (m u : Byte) (s : State), 4 ≤ u → isModifier u = false → s.diu[p] = .keyboard m [] →
    s.wpc.desk = .awake →
    let down := Instr.keyboardReport t p [m, 0, u, 0, 0, 0, 0, 0]
    let idle : State := { s.at t with
      diu := s.diu.set p (.keyboard m [u]), hks := { s.hks with seq := .idle, hold := [] } }
    let released := s.hks.hold.foldl State.route idle
    let names (j : Fin 24) : Prop := s.hks.table[j].enabled = true ∧ s.hks.table[j].kind = .sequence ∧
      s.hks.table[j].usage = u ∧ s.hks.table[j].cond.met s.deskModifiers = true
    (∀ phase d, s.hks.seq = .firstTap phase d → ¬ (phase = .firstUp ∧ s.hks.leader = some u) →
      exec down s = exec down { released with diu := s.diu }) ∧
    ∀ d, s.hks.seq = .armed d →
      (∀ i : Fin 24, names i → (∀ j : Fin 24, j < i → ¬ names j) →
        exec down s = .next (State.fire i s.hks.table[i].command s.hks.table[i].argument { idle with hks := { idle.hks with
          swallowed := (if s.hks.swallowed.length < 4 then s.hks.swallowed else s.hks.swallowed.drop 1) ++ [(p, u)] } })) ∧
      ((∀ i : Fin 24, ¬ names i) →
        exec down s = .next (released.route { port := p, make := true, usage := u }))) ∧
  ∀ (t d : Time) (p : DeskPortId) (m : Byte) (k : Fin 8) (s : State), s.hks.seq = .armed d →
    let bit : Byte := 1#8 <<< k.val
    let event (make : Bool) : KeyEvent := { port := p, make := make, usage := 0xE0 + byte k.val }
    let taken (make : Bool) : State :=
      let u : State := { s.at t with diu := s.diu.set p (.keyboard (if make then m ||| bit else m &&& ~~~ bit) []) }
      if s.hks.hold.length < 8 then { u with hks := { s.hks with hold := s.hks.hold ++ [event make] } }
      else (s.hks.hold.foldl State.route { u with hks := { s.hks with seq := .idle, hold := [] } }).route (event make)
    (s.diu[p] = .keyboard m [] → m.getLsbD k.val = false → s.wpc.desk = .awake →
      exec (.keyboardReport t p [m ||| bit, 0, 0, 0, 0, 0, 0, 0]) s = .next (taken true)) ∧
    (s.diu[p] = .keyboard m [] → m.getLsbD k.val = true → (p, 0xE0 + byte k.val) ∉ s.hks.swallowed →
      (∃ before after, s.hks.hold = before ++ event true :: after ∧
        ∀ e ∈ after, ¬ (e.port = p ∧ e.usage = 0xE0 + byte k.val)) →
      exec (.keyboardReport t p [m &&& ~~~ bit, 0, 0, 0, 0, 0, 0, 0]) s = .next (taken false))

/-- R21, R31, R35: a tap deadline reached in FIRST TAP leaves the sequencer IDLE and gives every held event to the Route Filter,
oldest first; with the leader's one make held, and only the default destination, it is then held on the CONFIGURED focus computer,
which is handed its snapshot. A command deadline reached in ARMED discards the held events and sends HOTKEY with outcome TIMEOUT.
Before its time an expiry changes nothing (log 1), nor in another state (log 3). -/
def Obligations.SequencerDeadlines : Prop :=
  ∀ (t : Time) (s : State),
    let now := max s.clock t
    let idle : State := { s.at t with hks := { s.hks with seq := .idle, hold := [] } }
    (∀ phase deadline, s.hks.seq = .firstTap phase deadline → deadline ≤ now →
      exec (.tapDeadlineExpiry t) s = .next (s.hks.hold.foldl State.route idle)) ∧
    (∀ deadline (p : DeskPortId) (u : Byte), s.hks.seq = .firstTap .firstDown deadline → deadline ≤ now →
      s.hks.hold = [{ port := p, make := true, usage := u }] → s.rtf.held = [] → (∀ c : Comp, (s.comp c).keySet = []) →
      (∀ i : Fin 32, s.rtf.rules[i].enabled = false) → (s.comp s.fcu.focus).port = .configured →
      exec (.tapDeadlineExpiry t) s = .next { idle with
        rtf := { s.rtf with held := [{ port := p, usage := u, focusMember := some s.fcu.focus, fixed := 0 }] }
        cps := s.cps.set s.fcu.focus
          (({ s.comp s.fcu.focus with keySet := [u] }).takeSnapshot (snapshotOf [u])) }) ∧
    (∀ deadline, s.hks.seq = .armed deadline → deadline ≤ now →
      exec (.commandDeadlineExpiry t) s = .next { idle with clp := s.clp.queueNotice (.hotkey 0xFF 3 0 0) }) ∧
    ((∀ phase deadline, s.hks.seq = .firstTap phase deadline → now < deadline) →
      exec (.tapDeadlineExpiry t) s = .next (s.at t)) ∧
    ((∀ deadline, s.hks.seq = .armed deadline → now < deadline) →
      exec (.commandDeadlineExpiry t) s = .next (s.at t))

/-- R18, R42, R181: a hotkey entry and a route rule that the rules allow are written whole, and READ ENTRY gives back the bytes
that were written. -/
def Obligations.TablesReadBackAsWritten : Prop :=
  (∀ (t : Time) (s : State) (tag : Byte) (rest : List Request) (i : Fin 24) (e : HotkeyEntry),
    let fields := [byte i.val, flagByte e.enabled, e.kind.code, e.usage, e.cond.ctrl.code, e.cond.shift.code, e.cond.alt.code,
      e.cond.gui.code, e.command.code, e.argument]
    (4 ≤ e.usage → ¬ (e.kind = .sequence ∧ isModifier e.usage = true) → e.argument.toNat < e.command.arguments →
      s.Asks 0x06 tag fields rest →
      exec (.writeHotkey t) s =
        .next ({ s.at t with hks := { s.hks with table := s.hks.table.set i e } }.answered 0x06 tag rest [0])) ∧
    (s.hks.table[i] = e → s.Asks 0x1E tag [1, byte i.val] rest →
      exec (.readEntry t) s = .next ((s.at t).answered 0x1E tag rest (0 :: fields)))) ∧
  ∀ (t : Time) (s : State) (tag : Byte) (rest : List Request) (i : Fin 32) (r : RouteRule),
    let fields := [byte i.val, flagByte r.enabled, r.ports.setWidth 8, r.low, r.high, r.cond.ctrl.code, r.cond.shift.code,
      r.cond.alt.code, r.cond.gui.code, flagByte r.includeFocus, r.fixed]
    (r.low ≤ r.high → s.Asks 0x07 tag fields rest →
      exec (.writeRule t) s =
        .next ({ s.at t with rtf := { s.rtf with rules := s.rtf.rules.set i r } }.answered 0x07 tag rest [0])) ∧
    (s.rtf.rules[i] = r → s.Asks 0x1E tag [0, byte i.val] rest →
      exec (.readEntry t) s = .next ((s.at t).answered 0x1E tag rest (0 :: fields)))

/-- R19, R21: SET HOTKEY TIMING writes the leader and the clamped windows and replies with them; a leader byte of 1 to 3 is
refused. A leader of none in FIRST TAP or ARMED takes the sequencer to IDLE at once and gives every held event to the Route
Filter, oldest first. -/
def Obligations.HotkeyTimingIsClamped : Prop :=
  ∀ (t : Time) (s : State) (tag : Byte) (rest : List Request) (leader t0 t1 c0 c1 : Byte),
    s.Asks 0x05 tag [leader, t0, t1, c0, c1] rest →
    let tap := max 100 (min 1000 (t0.toNat + 256 * t1.toNat))
    let command := max 500 (min 5000 (c0.toNat + 256 * c1.toNat))
    let hks : Hks := { s.hks with leader := if leader = 0 then none else some leader, tapWindow := tap, commandWindow := command }
    let reply := [0, leader, byte tap, byte (tap / 256), byte command, byte (command / 256)]
    (1 ≤ leader ∧ leader ≤ 3 → exec (.setHotkeyTiming t) s = .next ((s.at t).answered 0x05 tag rest [4])) ∧
    (¬ (1 ≤ leader ∧ leader ≤ 3) →
      (leader ≠ 0 ∨ s.hks.seq = .idle ∨ (∃ i c a, s.hks.seq = .chordHeld i c a) →
        exec (.setHotkeyTiming t) s = .next ({ s.at t with hks := hks }.answered 0x05 tag rest reply)) ∧
      (leader = 0 → (∃ phase d, s.hks.seq = .firstTap phase d) ∨ (∃ d, s.hks.seq = .armed d) →
        exec (.setHotkeyTiming t) s = .next ((s.hks.hold.foldl State.route { s.at t with
          hks := { hks with seq := .idle, hold := [] } }).answered 0x05 tag rest reply)))

/-- R49: the snapshot of a key set: its modifier set, and its six slots, which hold the rollover marker where more than six other
usages are in the key set. -/
def Obligations.SnapshotOfAKeySet : Prop :=
  ∀ keySet : List Byte,
    (∀ i : Fin 8, (snapshotOf keySet).mods.getLsbD i.val = keySet.contains (0xE0 + BitVec.ofNat 8 i.val)) ∧
    let keys := keySet.filter (fun u => !(decide (0xE0 ≤ u) && decide (u ≤ 0xE7)))
    (snapshotOf keySet).slots.toList =
      if keys.length ≤ 6 then keys ++ List.replicate (6 - keys.length) 0x00 else List.replicate 6 0x01

/-! ## Focus -/

/-- R58, R59, R61 to R68, R51, R75: SET FOCUS is judged on the focus record. Naming the focus computer it changes nothing; under
HARD without force it is refused; otherwise the focus changes, and the reply follows every notice. A focus request of any cause
that R59 grants comes to the seven steps of the change: the outgoing computer's buttons and keys are released, the desk buttons held
are stale, the focus record is written, the pointer is warped (not by glide) and park is set where the target is not under it, the
target is woken where it asks for that, it is told the pointer's position where it is under it, and FOCUS is queued; then the LEDs
are derived. The clauses of the change are for a dwell setting other than 0, with which no GLIDE request follows it (log 6); that
no dwell starts at its sixth step is log 7. -/
def Obligations.SetFocusIsJudged : Prop :=
  (∀ (t : Time) (s : State) (tag : Byte) (rest : List Request) (c : Comp) (forced : Bool),
    s.Asks 0x10 tag [byte c.val, flagByte forced] rest →
    let f := s.fcu.focus
    let lock := if s.fcu.lock = .hard then (if s.deskButtons = 0 then Lock.none else Lock.soft) else s.fcu.lock
    (f = c → exec (.setFocus t) s = .next ((s.at t).answered 0x10 tag rest [0, byte f.val, s.fcu.lock.code, 0])) ∧
    (f ≠ c → s.fcu.lock = .hard → forced = false →
      exec (.setFocus t) s = .next ((s.at t).answered 0x10 tag rest [7, byte f.val, 2, 0])) ∧
    (f ≠ c → (s.fcu.lock ≠ .hard ∨ forced = true) → s.ptu.dwell ≠ 0 →
      ∃ r, exec (.setFocus t) s = .next r ∧
        r = ((s.at t).requestFocus c .host forced).answered 0x10 tag rest [0, byte c.val, lock.code, 1] ∧
        r.fcu.focus = c ∧ r.fcu.lastCause = .host ∧ r.fcu.lock = lock ∧
        r.fcu.guard = (if s.ptu.guard = 0 then none else some (max s.clock t + s.ptu.guard)) ∧
        (∀ k ∈ r.rtf.held, k.focusMember ≠ some f) ∧
        (∀ p : DeskPortId, r.ptu.stale[p] = s.ptu.stale[p] ||| s.diu[p].held) ∧
        r.clp.inbound = rest ∧
        (∃ q, r.clp.outbound = s.clp.outbound ++ q ++ [{ kind := 0x90, tag := tag, payload := [0, byte c.val, lock.code, 1] }]) ∧
        r.diu = s.diu ∧ r.hks = s.hks ∧ r.rtf.rules = s.rtf.rules ∧ (∀ d : Comp, d ≠ f → d ≠ c → r.comp d = s.comp d) ∧
        (¬ ((s.comp c).port = .suspended ∧ (s.comp c).wakeOnFocus = true) → r.lco = s.lco ∧ r.wpc = s.wpc))) ∧
  ∀ (s : State) (c : Comp) (cause : FocusCause) (forced : Bool), s.fcu.focus ≠ c →
    (cause = .glide → s.fcu.pending.map Pending.target = some c) → (s.fcu.lock ≠ .hard ∨ forced = true) →
    s.ptu.dwell ≠ 0 → s.KeySetLaw →
    let f := s.fcu.focus
    let lock := if s.fcu.lock = .hard then (if s.deskButtons = 0 then Lock.none else Lock.soft) else s.fcu.lock
    let unbuttoned : Computer := match (s.comp f).lastPointer with
      | some p => if p.buttons = 0 then s.comp f else (s.comp f).takePointer { p with buttons := 0 } 0
      | none => s.comp f
    let held := s.rtf.held.map (fun k => if k.focusMember = some f then { k with focusMember := none } else k)
    let keys := (s.comp f).keySet.filter (fun u => held.any (fun k => decide (k.usage = u) && k.names f))
    let released : Computer := if keys = (s.comp f).keySet then unbuttoned
      else ({ unbuttoned with keySet := keys }).takeSnapshot (snapshotOf keys)
    ∃ stale, (∀ p : DeskPortId, stale[p] = s.ptu.stale[p] ||| s.diu[p].held) ∧
      let marked : Ptu := { s.ptu with stale := stale }
      let warped : Ptu := match s.warpPlace c with
        | some (x, y) => if cause = .glide then marked else { marked with px := x, py := y, fx := 0, fy := 0 }
        | none => marked
      let hit := { s with ptu := warped }.hitTest
      let written : State := { s with
        cps := s.cps.set f released
        rtf := { s.rtf with held := held }
        ptu := { warped with hitTile := hit.1, hit := hit.2 }
        fcu := {
          focus := c, lock := lock, pending := none, lastCause := cause
          guard := if s.ptu.guard = 0 then none else some (s.clock + s.ptu.guard)
          park := if cause = .glide ∨ hit.2.map Hit.target = some c then none else some hit.1 } }
      let woken : State :=
        if (s.comp c).port = .suspended ∧ (s.comp c).wakeOnFocus = true then written.wake State.reevaluateCore c .focus
        else written
      let under := woken.hitTest
      let park := if woken.fcu.park = some under.1 then woken.fcu.park else none
      s.requestFocus c cause forced = State.deriveLeds { woken with
        ptu := { woken.ptu with hitTile := under.1, hit := under.2 }
        fcu := { woken.fcu with
          park := park
          pending := match under.2 with
            | some at' => if at'.target ≠ c ∧ lock = .none ∧ woken.fcu.guard = none ∧ park = none ∧
                woken.fcu.pending.map Pending.target = some at'.target then woken.fcu.pending else none
            | none => none }
        cps := match under.2 with
          | some at' => if at'.target = c then
              woken.cps.set c ((woken.comp c).takePointer { buttons := 0, ax := at'.ax, ay := at'.ay } 0) else woken.cps
          | none => woken.cps
        clp := woken.clp.queueNotice (.focus c f (match cause with
          | .glide => 0
          | .hotkey => 1
          | .panel => 2
          | .preset => 3
          | .host => 4) lock park.isSome) }

/-- R88, R89: a re-evaluation makes the hit test, clears a park the pointer has left, and makes the glide decision. With a dwell
setting other than 0 it changes nothing else; with a dwell setting of 0 it makes a GLIDE request at once for the target that it has
just made pending. -/
def Obligations.ReevaluationDecidesDwell : Prop :=
  ∀ s : State,
    let park := if s.fcu.park = some s.hitTest.1 then s.fcu.park else none
    let pending : Option Pending :=
      match s.hitTest.2 with
      | none => none
      | some hit =>
        if hit.target ≠ s.fcu.focus ∧ s.fcu.lock = .none ∧ s.fcu.guard = none ∧ park = none then
          (match s.fcu.pending with
            | some p => if p.target = hit.target then some p else some { target := hit.target, deadline := s.clock + s.ptu.dwell }
            | none => some { target := hit.target, deadline := s.clock + s.ptu.dwell })
        else none
    let decided : State := { s with
      ptu := { s.ptu with hitTile := s.hitTest.1, hit := s.hitTest.2 }
      fcu := { s.fcu with park := park, pending := pending } }
    (s.ptu.dwell ≠ 0 → s.reevaluate = decided) ∧
    (s.ptu.dwell = 0 →
      (∀ p, pending = some p → s.fcu.pending.map Pending.target ≠ some p.target →
        s.reevaluate = decided.requestFocus p.target .glide false) ∧
      (∀ p, pending = some p → s.fcu.pending.map Pending.target = some p.target → s.reevaluate = decided) ∧
      (pending = none → s.reevaluate = decided))

/-- R70, R71: a guard deadline reached is cleared and the hit target re-evaluated; a dwell deadline reached moves focus to the
pending target with cause GLIDE and does not move the pointer. Before its time an expiry changes nothing (log 1), nor does one of
a deadline that is absent (log 3). -/
def Obligations.GuardAndDwellDeadlines : Prop :=
  ∀ (t : Time) (s : State),
    let now := max s.clock t
    (∀ deadline, s.fcu.guard = some deadline →
      exec (.guardDeadlineExpiry t) s =
        .next (if deadline ≤ now then State.reevaluate { s.at t with fcu := { s.fcu with guard := none } } else s.at t)) ∧
    (s.fcu.guard = none → exec (.guardDeadlineExpiry t) s = .next (s.at t)) ∧
    (s.fcu.pending = none → exec (.dwellDeadlineExpiry t) s = .next (s.at t)) ∧
    ∀ p, s.fcu.pending = some p →
      (now < p.deadline → exec (.dwellDeadlineExpiry t) s = .next (s.at t)) ∧
      (p.deadline ≤ now → s.fcu.PendingTargetLaw → s.ptu.dwell ≠ 0 →
        ∃ r, exec (.dwellDeadlineExpiry t) s = .next r ∧
          r.fcu.focus = p.target ∧ r.fcu.lastCause = .glide ∧ r.fcu.lock = .none ∧ r.fcu.park = none ∧
          r.fcu.guard = (if s.ptu.guard = 0 then none else some (now + s.ptu.guard)) ∧
          r.ptu.px = s.ptu.px ∧ r.ptu.py = s.ptu.py ∧ r.ptu.fx = s.ptu.fx ∧ r.ptu.fy = s.ptu.fy ∧
          (∀ k ∈ r.rtf.held, k.focusMember ≠ some s.fcu.focus) ∧
          r.diu = s.diu ∧ r.hks = s.hks ∧ r.rtf.rules = s.rtf.rules ∧ r.clp.inbound = s.clp.inbound ∧
          ∀ d : Comp, d ≠ s.fcu.focus → d ≠ p.target → r.comp d = s.comp d)

/-- R74, R75, R76: SET LOCK HARD sets the hard lock and clears the pending target; SET LOCK NONE clears HARD, to SOFT where a desk
button is held; each change of the lock queues FOCUS with cause LOCK. SOFT and NONE stay under SET LOCK NONE. A payload of
another length or byte is refused. -/
def Obligations.SetLockWritesTheLock : Prop :=
  ∀ (t : Time) (s : State) (tag : Byte) (payload : List Byte) (rest : List Request), s.Asks 0x11 tag payload rest →
    let f := s.fcu.focus
    let left := if s.deskButtons = 0 then Lock.none else Lock.soft
    ∃ now, s.clock ≤ now ∧
      (payload = [1] → s.fcu.lock ≠ .hard → exec (.setLock t) s = .next ({ s with
        clock := now, fcu := { s.fcu with lock := .hard, pending := none },
        clp := s.clp.queueNotice (.focus f f 5 .hard s.fcu.park.isSome) }.answered 0x11 tag rest [0, 2])) ∧
      (payload = [1] → s.fcu.lock = .hard →
        exec (.setLock t) s = .next ({ s with clock := now }.answered 0x11 tag rest [0, 2])) ∧
      (payload = [0] → s.fcu.lock = .hard → exec (.setLock t) s = .next ({ s with
        clock := now, fcu := { s.fcu with lock := left },
        clp := s.clp.queueNotice (.focus f f 5 left s.fcu.park.isSome) }.answered 0x11 tag rest [0, left.code])) ∧
      (payload = [0] → s.fcu.lock ≠ .hard →
        exec (.setLock t) s = .next ({ s with clock := now }.answered 0x11 tag rest [0, s.fcu.lock.code])) ∧
      (∀ b : Byte, payload = [b] → b ≠ 0 → b ≠ 1 →
        exec (.setLock t) s = .next ({ s with clock := now }.answered 0x11 tag rest [4])) ∧
      (payload.length ≠ 1 → exec (.setLock t) s = .next ({ s with clock := now }.answered 0x11 tag rest [2]))

/-- R77: READ FOCUS with an empty payload gives the focus record, byte by byte; with another payload it is refused. -/
def Obligations.ReadFocusGivesTheRecord : Prop :=
  ∀ (t : Time) (s : State) (tag : Byte) (payload : List Byte) (rest : List Request), s.Asks 0x1A tag payload rest →
    let lock : Byte := match s.fcu.lock with
      | .none => 0
      | .soft => 1
      | .hard => 2
    let pending : Byte := match s.fcu.pending with
      | some p => byte p.target.val
      | none => 0xFF
    let park : List Byte := match s.fcu.park with
      | none => [0xFF, 0xFF, 0xFF, 0xFF]
      | some tile =>
        byte tile.screen.val :: (match tile.record with
          | some r => [byte r.val, 0]
          | none => [0xFF, 0xFF]) ++ [match tile.cell with
          | some i => byte i.val
          | none => 0xFF]
    let cause : Byte := match s.fcu.lastCause with
      | .glide => 0
      | .hotkey => 1
      | .panel => 2
      | .preset => 3
      | .host => 4
    ∃ now, s.clock ≤ now ∧
      (payload ≠ [] → exec (.readFocus t) s = .next ({ s with clock := now }.answered 0x1A tag rest [2])) ∧
      (payload = [] → exec (.readFocus t) s = .next ({ s with clock := now }.answered 0x1A tag rest
        ([0, byte s.fcu.focus.val, lock, pending, if s.fcu.guard.isSome then 1 else 0, if s.fcu.park.isSome then 1 else 0] ++
          park ++ [cause])))

/-- R1, R11: no command but those of the desk ports, and full reset, changes a desk port's record. R59, R71, R74, R75: under HARD
no command but full reset, RESTART, SET LOCK, SET FOCUS and the key events that may run UNLOCK changes the focus computer or the
lock. -/
def Obligations.DeskRecordsAndTheHardLockHold : Prop :=
  ∀ (c : Instr) (s r : State), exec c s = .next r →
    (writesDeskPorts c = false → r.diu = s.diu) ∧
    (s.fcu.lock = .hard → mayUnlock c = false →
      r.fcu.focus = s.fcu.focus ∧ r.fcu.lock = .hard ∧ r.fcu.lastCause = s.fcu.lastCause)

/-! ## The pointer -/

/-- R81: SET POINTER with five bytes writes the clamped speed, dwell and guard; with none it writes nothing; both reply with the
settings, the pointer and the hit target, and change nothing else. Another length is refused. -/
def Obligations.SetPointerWritesAndReads : Prop :=
  ∀ (t : Time) (s : State) (tag : Byte) (payload : List Byte) (rest : List Request), s.Asks 0x04 tag payload rest →
    let values (p : Ptu) : List Byte :=
      [0, byte p.speed, byte p.dwell, byte (p.dwell / 256), byte p.guard, byte (p.guard / 256), byte p.px, byte (p.px / 256),
        byte p.py, byte (p.py / 256), match p.hit with
          | some hit => byte hit.target.val
          | none => 0xFF]
    ∃ now, s.clock ≤ now ∧
      (payload = [] → exec (.setPointer t) s = .next ({ s with clock := now }.answered 0x04 tag rest (values s.ptu))) ∧
      (∀ a d0 d1 g0 g1 : Byte, payload = [a, d0, d1, g0, g1] →
        let ptu : Ptu := { s.ptu with
          speed := max 1 (min 64 a.toNat), dwell := min 500 (d0.toNat + 256 * d1.toNat),
          guard := min 1000 (g0.toNat + 256 * g1.toNat) }
        exec (.setPointer t) s = .next ({ s with clock := now, ptu := ptu }.answered 0x04 tag rest (values ptu))) ∧
      (payload ≠ [] → payload.length ≠ 5 → exec (.setPointer t) s = .next ({ s with clock := now }.answered 0x04 tag rest [2]))

/-- R82, R83, R9: a movement is scaled by the speed with its remainder, and moves the pointer one axis after the other: to the
point reached where that lies in a placed screen, and otherwise to the edge of the screen it is on, the remainder lost. A GLIDE
request that the re-evaluation makes does not move it (R65). -/
def Obligations.MovementStaysOnPlacedScreens : Prop :=
  ∀ (t : Time) (p : DeskPortId) (b bx bY : Byte) (s : State) (scr : ScreenId),
    s.diu[p] = .pointer (b.setWidth 5) → s.wpc.desk ≠ .asleep → ¬ (bx = 0 ∧ bY = 0) → s.lco.CanvasLaw →
    s.lco.screens[scr].placed = true → s.lco.screens[scr].rect.contains s.ptu.px s.ptu.py = true →
    let inside (x y : Int) : Prop := ∃ o : ScreenId, s.lco.screens[o].placed = true ∧ s.lco.screens[o].rect.containsInt x y = true
    let tx : Int := max (-127) bx.toInt * s.ptu.speed + s.ptu.fx
    let ty : Int := max (-127) bY.toInt * s.ptu.speed + s.ptu.fy
    let qx : Int := s.ptu.px + tx.tdiv 16
    let qy : Int := s.ptu.py + ty.tdiv 16
    let c := s.lco.screens[scr].rect
    ∃ r, exec (.pointerReport t p [b, bx, bY]) s = .next r ∧
      (inside qx s.ptu.py → (r.ptu.px : Int) = qx ∧ r.ptu.fx = tx - 16 * tx.tdiv 16) ∧
      (¬ inside qx s.ptu.py → (r.ptu.px : Int) = max (c.x : Int) (min (c.x + c.w - 1 : Int) qx) ∧ r.ptu.fx = 0) ∧
      ∃ o : ScreenId, s.lco.screens[o].placed = true ∧ s.lco.screens[o].rect.contains r.ptu.px s.ptu.py = true ∧
        (inside r.ptu.px qy → (r.ptu.py : Int) = qy ∧ r.ptu.fy = ty - 16 * ty.tdiv 16) ∧
        (¬ inside r.ptu.px qy →
          (r.ptu.py : Int) = max (s.lco.screens[o].rect.y : Int)
            (min (s.lco.screens[o].rect.y + s.lco.screens[o].rect.h - 1 : Int) qy) ∧ r.ptu.fy = 0)

/-- R88, R90, R92: after a movement in AWAKE the hit test is made at the pointer's new place. Over the focus computer its port is
handed one report of the delivered buttons at the hit position, and dwell ends; over anything else no report is made, and the
re-evaluation is all there is. `s.moved` is the pointer record of R82 and R83. -/
def Obligations.MotionReportsToTheFocusComputer : Prop :=
  ∀ (t : Time) (p : DeskPortId) (b bx bY : Byte) (s : State),
    s.diu[p] = .pointer (b.setWidth 5) → s.wpc.desk = .awake → ¬ (bx = 0 ∧ bY = 0) →
    let f := s.fcu.focus
    let there : State := { s.at t with ptu := s.moved (max (-127) bx.toInt) (max (-127) bY.toInt) }
    (∀ hit, there.hitTest.2 = some hit → hit.target = f →
      exec (.pointerReport t p [b, bx, bY]) s = .next { there with
        ptu := { there.ptu with hitTile := there.hitTest.1, hit := some hit }
        fcu := { s.fcu with pending := none, park := if s.fcu.park = some there.hitTest.1 then s.fcu.park else none }
        cps := s.cps.set f ((s.comp f).takePointer { buttons := s.deliveredButtons, ax := hit.ax, ay := hit.ay } 0) }) ∧
    ((∀ hit, there.hitTest.2 = some hit → hit.target ≠ f) →
      exec (.pointerReport t p [b, bx, bY]) s = .next there.reevaluate)

/-- R85: each point of a GRID tile lies in exactly one cell's rectangle, that of the cell the point's index names. R87: an
absolute position is at most 32767, a computer that scales it back recovers the desktop pixel exactly, and a pixel past the
desktop's extent is held at its far edge. R86, R87: a head under a point maps it to its owner's desktop, clamped to the head's
measured size. R84: the hit test finds the last tile of the active chain that holds the pointer, and what that shows there. R65:
the place a warp finds is the first of those that show the target. -/
def Obligations.CellsAndAbsolutePositionsAreExact : Prop :=
  (∀ (rect : Rect) (columns rows lx ly : Nat), 1 ≤ columns → 1 ≤ rows → columns ≤ rect.w → rows ≤ rect.h →
    rect.contains lx ly = true →
    cellAt rect columns rows lx ly < columns * rows ∧
    ∀ i, i < columns * rows →
      ((cellRect rect columns rows i).contains lx ly = true ↔ i = cellAt rect columns rows lx ly)) ∧
  (∀ pixel extent : Nat, 1 ≤ extent → extent ≤ 16384 →
    absoluteAxis pixel extent ≤ 32767 ∧
    (pixel < extent → absoluteAxis pixel extent * extent / 32768 = pixel) ∧
    (extent ≤ pixel → absoluteAxis pixel extent = 32767)) ∧
  (∀ (s : State) (rect : Rect) (view : View) (h : HeadId) (lx ly : Nat),
    let head := s.lco.heads[h]
    let size := head.size.getD (0, 0)
    let region : Rect := match view with
      | .whole => { x := 0, y := 0, w := size.1, h := size.2 }
      | .crop c => c
    let sx := min (region.x + (lx - rect.x) * region.w / rect.w) (size.1 - 1)
    let sy := min (region.y + (ly - rect.y) * region.h / rect.h) (size.2 - 1)
    (head.owner = none → s.hitHead rect view h lx ly = none) ∧
    ∀ c, head.owner = some c → s.hitHead rect view h lx ly = some {
      target := c, ax := absoluteAxis (head.dx + sx) (s.comp c).dw, ay := absoluteAxis (head.dy + sy) (s.comp c).dh }) ∧
  (∀ (s : State) (scr : ScreenId), s.lco.CanvasLaw → s.lco.screens[scr].placed = true →
    s.lco.screens[scr].rect.contains s.ptu.px s.ptu.py = true →
    let lx := s.ptu.px - s.lco.screens[scr].rect.x
    let ly := s.ptu.py - s.lco.screens[scr].rect.y
    let holds (r : TileId) : Prop := ∃ tile, s.lco.tiles[r] = some tile ∧ tile.rect.contains lx ly = true
    let found (r : Option TileId) (cell : Option (Fin 16)) : TileRef := { screen := scr, record := r, cell := cell }
    ((∀ r ∈ s.lco.activeChain scr, ¬ holds r) → s.hitTest = (found none none, none)) ∧
    ∀ before r after tile, s.lco.activeChain scr = before ++ r :: after → s.lco.tiles[r] = some tile →
      tile.rect.contains lx ly = true → (∀ q ∈ after, ¬ holds q) →
      (∀ colour, tile.kind = .fill colour → s.hitTest = (found (some r) none, none)) ∧
      (∀ p a f view b, tile.kind = .single p a .primary f view b →
        s.hitTest = (found (some r) none, s.hitHead tile.rect view p lx ly)) ∧
      (∀ p a f view b, tile.kind = .single p (some a) .alternate f view b →
        s.hitTest = (found (some r) none, s.hitHead tile.rect view a lx ly)) ∧
      ∀ columns rows cells b, tile.kind = .grid columns rows cells b →
        let i := cellAt tile.rect columns rows lx ly
        (∀ h, cells[i]? = some (some h) → s.hitTest =
          (found (some r) (some (Fin.ofNat 16 i)), s.hitHead (cellRect tile.rect columns rows i) .whole h lx ly)) ∧
        (cells[i]? = some none → s.hitTest = (found (some r) (some (Fin.ofNat 16 i)), none))) ∧
  ∀ (s : State) (c : Comp),
    let places (tile : Tile) : List (Rect × HeadId) := match tile.kind with
      | .single _ (some a) .alternate _ _ _ => [(tile.rect, a)]
      | .single p _ _ _ _ _ => [(tile.rect, p)]
      | .grid columns rows cells _ => cells.zipIdx.flatMap (fun (cell, i) =>
          cell.toList.map (fun h => (cellRect tile.rect columns rows i, h)))
      | .fill _ => []
    let on (scr : ScreenId) : List (Nat × Nat) :=
      (((s.lco.activeChain scr).flatMap (fun r => (s.lco.tiles[r]).toList.flatMap places)).filter
        (fun place => decide (s.lco.heads[place.2].owner = some c))).map (fun (rect, _) =>
          (s.lco.screens[scr].rect.x + (rect.x + rect.w / 2), s.lco.screens[scr].rect.y + (rect.y + rect.h / 2)))
    s.warpPlace c = ((allScreens.filter (fun scr => s.lco.screens[scr].placed)).flatMap on).head?

/-- R91, R95: a wheel report is handed to the focus computer, wherever the pointer lies. -/
def Obligations.WheelGoesToTheFocusComputer : Prop :=
  ∀ (t : Time) (p : DeskPortId) (b w : Byte) (s : State),
    s.diu[p] = .pointer (b.setWidth 5) → s.wpc.desk ≠ .asleep → w ≠ 0 →
    let f := s.fcu.focus
    let position : Nat × Nat := match (s.comp f).lastPointer, s.ptu.hit with
      | some last, _ => (last.ax, last.ay)
      | none, some hit => if hit.target = f then (hit.ax, hit.ay) else (16384, 16384)
      | none, none => (16384, 16384)
    ∃ now, s.clock ≤ now ∧ exec (.pointerReport t p [b, 0, 0, w]) s = .next { s with
      clock := now
      cps := s.cps.set f ((s.comp f).takePointer
        { buttons := s.deliveredButtons, ax := position.1, ay := position.2 } (max (-127) w.toInt)) }

/-- R72, R73, R80, R93, R94, R96, R152: a button pressed while dwell runs first asks for the pending target by glide
(click-to-focus), and is then a press after that change. It is delivered to the focus computer and sets SOFT from NONE, and a
focus computer that sleeps is woken where its wake-on-input flag is set. Its break is delivered where it is not stale; a stale one
loses its mark and is discarded. With no desk button left, SOFT clears and the hit target is re-evaluated. A desk button is one
that a POINTER port's previous report holds, and a delivered one is held by a port where it is not stale (R80, R96). -/
def Obligations.ButtonsLockAndRelease : Prop :=
  (∀ (s : State) (b : Fin 5),
    (s.deskButtons.getLsbD b.val = true ↔
      ∃ (p : DeskPortId) (held : Buttons), s.diu[p] = .pointer held ∧ held.getLsbD b.val = true) ∧
    (s.deliveredButtons.getLsbD b.val = true ↔
      ∃ (p : DeskPortId) (held : Buttons), s.diu[p] = .pointer held ∧ held.getLsbD b.val = true ∧
        s.ptu.stale[p].getLsbD b.val = false)) ∧
  ∀ (t : Time) (p : DeskPortId) (b : Fin 5) (held : Buttons) (s : State),
    let bit : Buttons := 1#5 <<< b.val
    let unmarked (u : State) : State := { u with
      ptu := { u.ptu with stale := u.ptu.stale.set p (u.ptu.stale[p] &&& ~~~ bit) } }
    let handed (u : State) : State := { u with
      cps := u.cps.set u.fcu.focus ((u.comp u.fcu.focus).takePointer
        { buttons := u.deliveredButtons, ax := u.reportPosition.1, ay := u.reportPosition.2 } 0) }
    (s.diu[p] = .pointer held → held.getLsbD b.val = false → s.wpc.desk = .awake →
      let down := unmarked { s.at t with diu := s.diu.set p (.pointer (held ||| bit)) }
      let clicked : State := match s.fcu.pending with
        | none => down
        | some pending => unmarked (down.requestFocus pending.target .glide false)
      let f := clicked.fcu.focus
      let locked : State := { handed clicked with
        fcu := if clicked.fcu.lock = .none then { clicked.fcu with lock := .soft, pending := none } else clicked.fcu }
      exec (.pointerReport t p [(held ||| bit).setWidth 8, 0, 0]) s = .next (
        if ((clicked.comp f).port = .suspended ∨ (clicked.comp f).port = .resuming) ∧ (clicked.comp f).wakeOnInput = true
        then locked.wake State.reevaluate f .input else locked)) ∧
    (s.diu[p] = .pointer held → held.getLsbD b.val = true →
      let up : State := { s.at t with diu := s.diu.set p (.pointer (held &&& ~~~ bit)) }
      let taken : State := if s.ptu.stale[p].getLsbD b.val then unmarked up else handed up
      exec (.pointerReport t p [(held &&& ~~~ bit).setWidth 8, 0, 0]) s = .next (
        if up.deskButtons = 0 ∧ s.fcu.lock = .soft then State.reevaluate { taken with fcu := { s.fcu with lock := .none } }
        else taken))

/-! ## Computer ports -/

/-- R111, R113 to R115, R117: what a port does with a keyboard snapshot, a pointer report and a SYSTEM entry. Outside the
accepting states it drops them. -/
def Obligations.PortTakesWhatItIsHanded : Prop :=
  ∀ r : Computer,
    let merged := min 65535 (r.merge + 1)
    (r.port.accepting = false →
      (∀ snap, r.takeSnapshot snap = r) ∧ (∀ p w, r.takePointer p w = r) ∧ ∀ code, r.takeSystem code = (r, false)) ∧
    (r.port.accepting = true →
      (∀ snap : Snapshot,
        (r.lastSnapshot = some snap → r.takeSnapshot snap = r) ∧
        (r.lastSnapshot ≠ some snap → r.queue.length < 16 → r.takeSnapshot snap = { r with
          queue := r.queue ++ [.keyboard snap], lastSnapshot := some snap, owedKeyboard := false }) ∧
        (r.lastSnapshot ≠ some snap → 16 ≤ r.queue.length → r.takeSnapshot snap = { r with
          owedKeyboard := true, merge := merged })) ∧
      (∀ (p : PointerState) (w : Int),
        let fold := ∃ older q v, r.queue = older ++ [.pointer q v] ∧ q.buttons = p.buttons
        (w = 0 → r.lastPointer = some p → r.takePointer p w = r) ∧
        (¬ (w = 0 ∧ r.lastPointer = some p) →
          (∀ older q v, r.queue = older ++ [.pointer q v] → q.buttons = p.buttons → r.takePointer p w = { r with
            queue := older ++ [.pointer p (max (-127) (min 127 (v + w)))], lastPointer := some p, owedPointer := false }) ∧
          (¬ fold → r.queue.length < 16 → r.takePointer p w = { r with
            queue := r.queue ++ [.pointer p w], lastPointer := some p, owedPointer := false }) ∧
          (¬ fold → 16 ≤ r.queue.length → r.takePointer p w = { r with
            lastPointer := some p, owedPointer := true, merge := merged }))) ∧
      (∀ code : SystemCode,
        (r.queue.length < 16 → r.takeSystem code = ({ r with queue := r.queue ++ [.system code] }, false)) ∧
        (16 ≤ r.queue.length →
          (∀ before q v after, r.queue = before ++ .pointer q v :: after → (∀ q' v', .pointer q' v' ∉ before) →
            r.takeSystem code = ({ r with
              queue := before ++ after ++ [.system code], owedPointer := true, merge := merged }, false)) ∧
          ((∀ q v, .pointer q v ∉ r.queue) → r.takeSystem code = (r, true)))))

/-- R103 to R107: which event moves a port from which state to which, and the configuration numbers acknowledged and stalled. An
event that does not apply to the port's state changes nothing (log 3). The bus address becomes 0 on a bus reset and on loss of
power (log 12). `changePort` is a change of state with all that follows it (O36); a bus reset in DEFAULT is no change of state and
sends no notice. `answer` is log 14's field. -/
def Obligations.BusEventsMoveThePort : Prop :=
  ∀ (t : Time) (c : Comp) (s : State),
    let r := s.comp c
    let u := s.at t
    let wrote (r' : Computer) : State := { u with cps := s.cps.set c r' }
    let enters (r' : Computer) (new : PortState) : State := (wrote r').changePort State.reevaluate c new
    exec (.busPowerPresent t c) s = .next (if r.port = .detached then enters r .powered else u) ∧
    exec (.busPowerLost t c) s = .next (if r.port = .detached then u else enters { r with address := 0 } .detached) ∧
    exec (.busReset t c) s = .next (if r.port = .detached then u else enters { r with address := 0 } .default) ∧
    (r.port = .default → exec (.busReset t c) s = .next (wrote { r with address := 0 })) ∧
    exec (.busIdle t c) s = .next (if r.port = .configured then enters r .suspended else u) ∧
    exec (.resumeByComputer t c) s =
      .next (if r.port = .suspended ∨ r.port = .resuming then enters r .configured else u) ∧
    exec (.resumeCompletes t c) s = .next (if r.port = .resuming then enters r .configured else u) ∧
    exec (.configuration1Selected t c) s =
      .next (if r.port = .default then enters { r with answer := .acknowledged } .configured
        else if r.port = .configured then wrote { r with answer := .acknowledged } else u) ∧
    exec (.configuration0Selected t c 0) s =
      .next (if r.port = .configured then enters { r with answer := .acknowledged } .default
        else if r.port = .default then wrote { r with answer := .acknowledged } else u) ∧
    ∀ n : Byte, n ≠ 0 → n ≠ 1 → exec (.configuration0Selected t c n) s =
      .next (if r.port = .configured ∨ r.port = .default then wrote { r with answer := .stall } else u)

/-- R52, R102, R109, R110, R154, R157: a port's change of state. It clears itself on leaving the accepting states, and the held
key table forgets it; then, in order: PORT STATE, the end of a wake attempt with WAKE RESULT, the completion test of desk sleep,
the darkness of every screen, the panels' LEDs. An event that leaves the state as it is sends no
notice and tells nobody. The order of the neighbours is log 8's, the elapsed time's rounding log 16's. -/
def Obligations.PortChangeIsToldInOrder : Prop :=
  (∀ (re : State → State) (c : Comp) (s : State), s.changePort re c (s.comp c).port = s) ∧
  ∀ (c : Comp) (new : PortState) (s : State), (s.comp c).port ≠ new →
    let old := (s.comp c).port
    let record : Computer :=
      if old.accepting && !new.accepting then { s.comp c with
        port := new, queue := [], keySet := [], owedKeyboard := false, owedPointer := false, lastSnapshot := none,
        lastPointer := none, remoteWake := false }
      else { s.comp c with
        port := new, remoteWake := if new = .default ∨ new = .detached then false else (s.comp c).remoteWake }
    let held : List HeldKey :=
      if old.accepting && !new.accepting then s.rtf.held.map (fun k => { k with
        focusMember := if k.focusMember = some c then none else k.focusMember, fixed := k.fixed &&& ~~~ (1#8 <<< c.val) })
      else s.rtf.held
    let s1 : State := { s with
      cps := s.cps.set c record, rtf := { s.rtf with held := held }
      clp := s.clp.queueNotice (.portState c new old record.remoteWake) }
    let result : WakeEnd := match new with
      | .configured => .resumed
      | .suspended => .timeout
      | .default => .busReset
      | _ => .detached
    let s2 : State := match s.wpc.wakes[c] with
      | some a => if old = .resuming then { s1 with
          wpc := { s.wpc with wakes := s.wpc.wakes.set c none }
          clp := s1.clp.queueNotice (.wakeResult c result a.cause (byte (min 255 ((s.clock - a.start) / 10)))) } else s1
      | none => s1
    let complete := s.wpc.desk = .sleepRequested ∧ s.wpc.awaited.getLsbD c.val = true ∧
      ∀ d : Comp, s.wpc.awaited.getLsbD d.val = true →
        (s1.comp d).port = .suspended ∨ (s1.comp d).port = .default ∨ (s1.comp d).port = .detached
    (complete → s.changePort State.reevaluate c new =
      ((s2.enterAsleep State.reevaluate .allAsleep).reevaluateScreens State.reevaluate).deriveLeds) ∧
    (¬ complete → s.changePort State.reevaluate c new = (s2.reevaluateScreens State.reevaluate).deriveLeds)

/-- R88, R89, R133, R134, R161, R162, R170: with a dwell setting other than 0, the re-evaluation of every screen's darkness and
the deriving of the LEDs change nothing but what follows on: no computer's record, no held key, no focus computer, no lock. -/
def Obligations.FollowOnsLeaveTheRest : Prop :=
  ∀ s : State, s.ptu.dwell ≠ 0 → s.FollowsOn (s.reevaluateScreens State.reevaluate).deriveLeds

/-- R104, R108: the requests a computer makes of its port. What a CONFIGURED port does with a descriptor request or an address,
and the descriptors' bytes, are free values (log 13); the statement holds for each of their values. A request in a state whose
rules give it no effect changes nothing (log 3). `answer` is log 14's field. -/
def Obligations.PortAnswersItsComputer : Prop :=
  ∀ (t : Time) (c : Comp) (s : State),
    let r := s.comp c
    let u := s.at t
    let wrote (r' : Computer) : State := { u with cps := s.cps.set c r' }
    (∀ which : DescriptorKind,
      let facts : DescriptorFacts := match which with
        | .device => .device
        | .configuration => .configuration 1 1 true
        | .report => .report 1 2 3 0 32767
      exec (.descriptorRequest t c which) s =
        .next (if r.port = .default ∨ r.port = .configured ∧ Config.configuredAnswersDescriptors = true
          then wrote { r with answer := .descriptor facts (Config.descriptorBytes which) } else u)) ∧
    (∀ address : BitVec 7, exec (.addressAssigned t c address) s =
      .next (if r.port = .default ∨ r.port = .configured ∧ Config.configuredTakesAddress = true
        then wrote { r with address := address } else u)) ∧
    exec (.setRemoteWake t c) s =
      .next (if r.port = .configured then wrote { r with remoteWake := true, answer := .acknowledged }
        else if r.port = .default then wrote { r with answer := .stall } else u) ∧
    exec (.clearRemoteWake t c) s =
      .next (if r.port = .configured then wrote { r with remoteWake := false, answer := .acknowledged }
        else if r.port = .default then wrote { r with answer := .stall } else u)

/-- R112, R116, R185: a poll of a CONFIGURED port sends the oldest entry in its layout, removes it on an acknowledge, and then
pays one owed report where a slot is free, the keyboard before the pointer. A poll of a port that is not CONFIGURED changes
nothing (log 3). `answer` is log 14's field. -/
def Obligations.PollSendsTheOldestEntry : Prop :=
  ∀ (t : Time) (c : Comp) (ack : Bool) (s : State),
    let r := s.comp c
    let layout (e : Entry) : List Byte := match e with
      | .keyboard snap => [1, snap.mods, 0] ++ snap.slots.toList
      | .pointer p w => [2, p.buttons.setWidth 8, byte p.ax, byte (p.ax / 256), byte p.ay, byte (p.ay / 256), BitVec.ofInt 8 w]
      | .system code => [3, match code with
        | .none => 0
        | .sleep => 1
        | .wake => 2]
    let sent : Computer := match r.queue with
      | [] => { r with answer := .noData }
      | e :: rest => { r with answer := .entry (layout e), queue := if ack then rest else e :: rest }
    let wrote (r' : Computer) : State := { s.at t with cps := s.cps.set c r' }
    let snap := snapshotOf r.keySet
    let fold := ∃ older q v p, sent.queue = older ++ [.pointer q v] ∧ r.lastPointer = some p ∧ q.buttons = p.buttons
    (r.port ≠ .configured → exec (.poll t c ack) s = .next (s.at t)) ∧
    (r.port = .configured →
      (16 ≤ sent.queue.length ∨ (r.owedKeyboard = false ∧ r.owedPointer = false) →
        exec (.poll t c ack) s = .next (wrote sent)) ∧
      (sent.queue.length < 16 → r.owedKeyboard = true → r.lastSnapshot ≠ some snap →
        exec (.poll t c ack) s = .next (wrote { sent with
          queue := sent.queue ++ [.keyboard snap], lastSnapshot := some snap, owedKeyboard := false })) ∧
      (sent.queue.length < 16 → (r.owedKeyboard = true → r.lastSnapshot = some snap) →
        (r.owedPointer = false → exec (.poll t c ack) s = .next (wrote { sent with owedKeyboard := false })) ∧
        (r.owedPointer = true →
          (r.lastPointer = none →
            exec (.poll t c ack) s = .next (wrote { sent with owedKeyboard := false, owedPointer := false })) ∧
          (∀ p older q v, r.lastPointer = some p → sent.queue = older ++ [.pointer q v] → q.buttons = p.buttons →
            exec (.poll t c ack) s = .next (wrote { sent with
              owedKeyboard := false, owedPointer := false
              queue := older ++ [.pointer p (max (-127) (min 127 v))] })) ∧
          (∀ p, r.lastPointer = some p → ¬ fold →
            exec (.poll t c ack) s = .next (wrote { sent with
              owedKeyboard := false, owedPointer := false, queue := sent.queue ++ [.pointer p 0] })))))

/-- R101, R118: SET COMPUTER writes the configuration fields alone, where the extents and the flags are in range; READ COMPUTER
gives the record. -/
def Obligations.ComputersAreWrittenAndRead : Prop :=
  ∀ (t : Time) (s : State) (tag : Byte) (rest : List Request) (c : Comp),
    let r := s.comp c
    (∀ w0 w1 h0 h1 flags : Byte, s.Asks 0x01 tag [byte c.val, w0, w1, h0, h1, flags] rest →
      let dw := w0.toNat + 256 * w1.toNat
      let dh := h0.toNat + 256 * h1.toNat
      let good := 1 ≤ dw ∧ dw ≤ 16384 ∧ 1 ≤ dh ∧ dh ≤ 16384 ∧ flags < 8
      (good → exec (.setComputer t) s = .next ({ s.at t with cps := s.cps.set c { r with
        dw := dw, dh := dh, wakeOnInput := flags.getLsbD 0, wakeOnFocus := flags.getLsbD 1,
        sleepsWithDesk := flags.getLsbD 2 } }.answered 0x01 tag rest [0])) ∧
      (¬ good → exec (.setComputer t) s = .next ((s.at t).answered 0x01 tag rest [4]))) ∧
    (s.Asks 0x17 tag [byte c.val] rest →
      let bit (b : Bool) (v : Byte) : Byte := if b then v else 0
      let last : List Byte := match r.lastPointer with
        | some p => [p.buttons.setWidth 8, byte p.ax, byte (p.ax / 256), byte p.ay, byte (p.ay / 256)]
        | none => [0xFF, 0, 0, 0, 0]
      let port : Byte := match r.port with
        | .detached => 0
        | .powered => 1
        | .default => 2
        | .configured => 3
        | .suspended => 4
        | .resuming => 5
      exec (.readComputer t) s = .next ((s.at t).answered 0x17 tag rest (
        [0, byte c.val, port, bit r.remoteWake 1, byte r.dw, byte (r.dw / 256), byte r.dh, byte (r.dh / 256),
          bit r.wakeOnInput 1 ||| bit r.wakeOnFocus 2 ||| bit r.sleepsWithDesk 4, byte r.queue.length,
          bit r.owedKeyboard 1 ||| bit r.owedPointer 2, byte r.merge, byte (r.merge / 256)] ++
        last ++ byte r.keySet.length :: r.keySet)))

/-! ## Heads and screens -/

/-- R121: what a head receiver reports becomes the head's signal and size. A difference queues SOURCE CHANGE, and a change between
LIVE and NO SIGNAL re-evaluates every screen's darkness; with no difference nothing changes. -/
def Obligations.SignalEventsWriteTheHead : Prop :=
  ∀ (t : Time) (h : HeadId) (s : State),
    let head := s.lco.heads[h]
    let reported (size : Option (Nat × Nat)) : State :=
      let told : State := { s.at t with
        lco := { s.lco with heads := s.lco.heads.set h { head with size := size } }
        clp := s.clp.queueNotice (.sourceChange h size) }
      if head.size = size then s.at t
      else if head.size.isSome = size.isSome then told
      else told.reevaluateScreens State.reevaluate
    exec (.signalLost t h) s = .next (reported none) ∧
    ∀ width height : Nat,
      let size := if 640 ≤ width ∧ width ≤ 2560 ∧ 480 ≤ height ∧ height ≤ 1600 then some (width, height) else none
      exec (.signalAcquired t h width height) s = .next (reported size) ∧
      exec (.modeChanged t h width height) s = .next (reported size)

/-- R120, R122, R123: SET HEAD writes the owner and the offset, within range and with at most four heads to an owner; a change
of owner re-evaluates the pointer's hit target and every screen's darkness, in that order by the model's choice (log 28). READ HEAD
gives the record. -/
def Obligations.HeadsAreWrittenAndRead : Prop :=
  ∀ (t : Time) (s : State) (tag : Byte) (rest : List Request) (h : HeadId),
    let old := s.lco.heads[h]
    let u := s.at t
    (∀ ob x0 x1 y0 y1 : Byte, s.Asks 0x02 tag [byte h.val, ob, x0, x1, y0, y1] rest →
      let dx := x0.toNat + 256 * x1.toNat
      let dy := y0.toNat + 256 * y1.toNat
      (∀ owner : Option Comp, (ob = match owner with
          | some c => byte c.val
          | none => 0xFF) → dx ≤ 16383 → dy ≤ 16383 →
        let others := (List.finRange 16).countP (fun g => decide (g ≠ h) && decide (s.lco.heads[g].owner = owner))
        let written : State := { u with
          lco := { s.lco with heads := s.lco.heads.set h { old with owner := owner, dx := dx, dy := dy } } }
        (owner ≠ none → 4 ≤ others → exec (.setHead t) s = .next (u.answered 0x02 tag rest [5])) ∧
        (owner = none ∨ others < 4 → old.owner = owner →
          exec (.setHead t) s = .next (written.answered 0x02 tag rest [0])) ∧
        (owner = none ∨ others < 4 → old.owner ≠ owner →
          exec (.setHead t) s =
            .next ((written.reevaluate.reevaluateScreens State.reevaluate).answered 0x02 tag rest [0]))) ∧
      ((8 ≤ ob ∧ ob ≠ 0xFF) ∨ 16383 < dx ∨ 16383 < dy → exec (.setHead t) s = .next (u.answered 0x02 tag rest [4]))) ∧
    (s.Asks 0x1B tag [byte h.val] rest →
      let owner : Byte := match old.owner with
        | some c => byte c.val
        | none => 0xFF
      let signal : List Byte := match old.size with
        | some (w, h') => [1, byte w, byte (w / 256), byte h', byte (h' / 256)]
        | none => [0, 0, 0, 0, 0]
      exec (.readHead t) s = .next (u.answered 0x1B tag rest (
        [0, byte h.val, owner, byte old.dx, byte (old.dx / 256), byte old.dy, byte (old.dy / 256)] ++ signal)))

/-- R97, R125, R126: PLACE SCREEN's checks in their order, and what it writes. Refused or not, the pointer is kept on a placed
screen, at the centre of the lowest-indexed one where it has lost its own, and re-evaluated; where placed or always-on changed the
screen's darkness is re-evaluated too, after the pointer by the model's choice (log 28). READ SCREEN gives the record. -/
def Obligations.ScreensArePlacedAndRead : Prop :=
  (∀ (t : Time) (s : State) (tag : Byte) (rest : List Request) (scr : ScreenId) (placed on : Bool) (r : Rect) (red green blue : Byte),
    s.Asks 0x03 tag [byte scr.val, flagByte placed, byte r.x, byte (r.x / 256), byte r.y, byte (r.y / 256), byte r.w,
      byte (r.w / 256), byte r.h, byte (r.h / 256), flagByte on, red, green, blue] rest →
    r.x < 65536 → r.y < 65536 → r.w < 65536 → r.h < 65536 →
    let old := s.lco.screens[scr]
    let refused (status : Byte) : State := (s.at t).keepPlaced.answered 0x03 tag rest [status]
    let onePlaced := placed = true ∨ ∃ o : ScreenId, o ≠ scr ∧ s.lco.screens[o].placed = true
    let unchained := placed = true ∨ (old.active = none ∧ (old.pending = none ∨ old.pending = some none))
    let fits := ∀ q ∈ s.lco.activeChain scr ++ s.lco.pendingChain scr, ∀ tile, s.lco.tiles[q] = some tile →
      tile.rect.within r.w r.h = true
    let apart := placed = true → ∀ o : ScreenId, o ≠ scr → s.lco.screens[o].placed = true →
      r.overlaps s.lco.screens[o].rect = false
    let written : State := { s.at t with lco := { s.lco with screens := s.lco.screens.set scr { old with
      placed := placed, rect := r, alwaysOn := on, background := { red := red, green := green, blue := blue },
      pending := if placed then old.pending else none } } }
    (¬ r.Placeable → exec (.placeScreen t) s = .next (refused 4)) ∧
    (r.Placeable →
      (¬ onePlaced → exec (.placeScreen t) s = .next (refused 9)) ∧
      (onePlaced → ¬ unchained → exec (.placeScreen t) s = .next (refused 5)) ∧
      (onePlaced → unchained → ¬ fits → exec (.placeScreen t) s = .next (refused 5)) ∧
      (onePlaced → unchained → fits → ¬ apart → exec (.placeScreen t) s = .next (refused 8)) ∧
      (onePlaced → unchained → fits → apart → exec (.placeScreen t) s = .next (
        (if old.placed = placed ∧ old.alwaysOn = on then written.keepPlaced
         else written.keepPlaced.reevaluateScreen State.reevaluate scr).answered 0x03 tag rest [0])))) ∧
  (∀ (s : State) (scr : ScreenId), s.lco.screens[scr].placed = true →
    (s.lco.screens[scr].rect.contains s.ptu.px s.ptu.py = true → s.keepPlaced = s.reevaluate) ∧
    (¬ s.PointerLaw → (∀ o : ScreenId, o < scr → s.lco.screens[o].placed = false) →
      s.keepPlaced = State.reevaluate { s with ptu := { s.ptu with
        px := s.lco.screens[scr].rect.x + s.lco.screens[scr].rect.w / 2
        py := s.lco.screens[scr].rect.y + s.lco.screens[scr].rect.h / 2
        fx := 0, fy := 0 } })) ∧
  ∀ (t : Time) (s : State) (tag : Byte) (rest : List Request) (scr : ScreenId), s.Asks 0x18 tag [byte scr.val] rest →
    let r := s.lco.screens[scr]
    let start (c : Option TileId) : List Byte := match c with
      | some q => [byte q.val, 0]
      | none => [0xFF, 0xFF]
    let pending : List Byte := match r.pending with
      | some c => start c
      | none => [0xFE, 0xFF]
    let power : Byte := match s.wpc.power[scr] with
      | .active => 0
      | .darkHold _ => 1
      | .standby _ => 2
    exec (.readScreen t) s = .next ((s.at t).answered 0x18 tag rest (
      [0, byte scr.val, flagByte r.placed, byte r.rect.x, byte (r.rect.x / 256), byte r.rect.y, byte (r.rect.y / 256),
        byte r.rect.w, byte (r.rect.w / 256), byte r.rect.h, byte (r.rect.h / 256), flagByte r.alwaysOn, r.background.red,
        r.background.green, r.background.blue] ++ start r.active ++ pending ++ [power]))

/-! ## Tiles and chains -/

/-- R127 to R129, R186: a tile record that the rules allow is written whole, with flip pending clear, unless a chain holds it;
READ TILE gives its membership and its fields as WRITE TILE lays them out; FREE TILE makes it FREE unless a chain holds it. -/
def Obligations.TilesAreWrittenReadAndFreed : Prop :=
  ∀ (t : Time) (s : State) (tag : Byte) (rest : List Request) (r : TileId),
    let le (n : Nat) : List Byte := [byte n, byte (n / 256)]
    let head (h : Option HeadId) : Byte := match h with
      | some g => byte g.val
      | none => 0xFF
    let common (tile : Tile) : List Byte :=
      (match tile.next with
        | some q => [byte q.val, 0]
        | none => [0xFF, 0xFF]) ++ le tile.rect.x ++ le tile.rect.y ++ le tile.rect.w ++ le tile.rect.h
    let fields (tile : Tile) : List Byte := match tile.kind with
      | .single p a showing _ view border =>
        0 :: common tile ++ [byte p.val, head a, match showing with
          | .primary => 0
          | .alternate => 1] ++
        (match view with
          | .whole => [0, 0, 0, 0, 0, 0, 0, 0, 0]
          | .crop c => 1 :: le c.x ++ le c.y ++ le c.w ++ le c.h) ++ [byte border]
      | .grid columns rows cells border => 1 :: common tile ++ [byte columns, byte rows, byte border] ++ cells.map head
      | .fill colour => 2 :: common tile ++ [colour.red, colour.green, colour.blue]
    let writable (tile : Tile) : Prop := tile.Lawful ∧ tile.flipWaits = false ∧
      ∀ p f v b, tile.kind ≠ .single p none .alternate f v b
    let member : List Byte := match allScreens.find? (fun scr => s.lco.inChains scr r) with
      | some scr => [byte scr.val,
          (if r ∈ s.lco.activeChain scr then 1 else 0) ||| (if r ∈ s.lco.pendingChain scr then 2 else 0)]
      | none => [0xFF, 0]
    (∀ tile, writable tile → s.Asks 0x0A tag (byte r.val :: fields tile) rest →
      ((∀ scr : ScreenId, s.lco.inChains scr r = false) → exec (.writeTile t) s =
        .next ({ s.at t with lco := { s.lco with tiles := s.lco.tiles.set r (some tile) } }.answered 0x0A tag rest [0])) ∧
      ((∃ scr : ScreenId, s.lco.inChains scr r = true) →
        exec (.writeTile t) s = .next ((s.at t).answered 0x0A tag rest [5]))) ∧
    (s.Asks 0x0B tag [byte r.val] rest →
      ((∀ scr : ScreenId, s.lco.inChains scr r = false) → exec (.freeTile t) s =
        .next ({ s.at t with lco := { s.lco with tiles := s.lco.tiles.set r none } }.answered 0x0B tag rest [0])) ∧
      ((∃ scr : ScreenId, s.lco.inChains scr r = true) →
        exec (.freeTile t) s = .next ((s.at t).answered 0x0B tag rest [5]))) ∧
    (s.Asks 0x19 tag [byte r.val] rest →
      (s.lco.tiles[r] = none →
        exec (.readTile t) s = .next ((s.at t).answered 0x19 tag rest ([0, byte r.val, 0] ++ member))) ∧
      ∀ tile, s.lco.tiles[r] = some tile → exec (.readTile t) s = .next ((s.at t).answered 0x19 tag rest (
        [0, byte r.val, 1] ++ member ++ fields tile ++ [if tile.flipWaits then 1 else 0])))

/-- R130 to R134: SET CHAIN's walk succeeds exactly where the chain reaches END within 32 WRITTEN records, each within the
screen and in no other screen's chains. It fails at the first record that does not pass, by the first test that fails there: TOO
LONG at the 33rd record, FREE RECORD, OWNED ELSEWHERE, OUTSIDE SCREEN. The chain then becomes the pending chain, or is applied at
once in STANDBY, with CHAIN APPLIED; that clause is for a screen on whose old and new chain no flip waits. The WPC re-evaluates that
screen and then, on the pointer's screen, the hit target is re-evaluated (their order: log 28). A failed walk is answered with its
sub-code and record (one byte, log 15), and the chains stay. -/
def Obligations.SetChainWalksTheChain : Prop :=
  (∀ (l : Lco) (scr : ScreenId) (start : Option TileId),
    l.checkChain scr start = none ↔
      l.ChainEnds l.screens[scr].rect.w l.screens[scr].rect.h 32 start ∧
      ∀ r ∈ l.chain start, ∀ other : ScreenId, other ≠ scr → l.inChains other r = false) ∧
  (∀ (l : Lco) (scr : ScreenId) (path : List TileId) (r : TileId),
    let elsewhere (q : TileId) : Prop := ∃ other : ScreenId, other ≠ scr ∧ l.inChains other q = true
    let inside (tile : Tile) : Prop := tile.rect.within l.screens[scr].rect.w l.screens[scr].rect.h = true
    let check := l.checkChain scr (path ++ [r]).head?
    path.length ≤ 32 →
    (∀ i q, path[i]? = some q → ¬ elsewhere q ∧
      ∃ tile, l.tiles[q] = some tile ∧ inside tile ∧ tile.next = (path ++ [r])[i + 1]?) →
      (path.length = 32 → check = some (.tooLong, r)) ∧
      (path.length < 32 →
        (l.tiles[r] = none → check = some (.freeRecord, r)) ∧
        ∀ tile, l.tiles[r] = some tile →
          (elsewhere r → check = some (.ownedElsewhere, r)) ∧
          (¬ elsewhere r → ¬ inside tile → check = some (.outsideScreen, r)))) ∧
  ∀ (t : Time) (s : State) (tag lo hi : Byte) (rest : List Request) (scr : ScreenId),
    s.Asks 0x0C tag [byte scr.val, lo, hi] rest →
    let u := s.at t
    let n := lo.toNat + 256 * hi.toNat
    (256 ≤ n → n ≠ 65535 → exec (.setChain t) s = .next (u.answered 0x0C tag rest [4])) ∧
    ∀ start : Option TileId, (n = match start with
        | some r => r.val
        | none => 65535) →
      let waiting : State := { u with
        lco := { s.lco with screens := s.lco.screens.set scr { s.lco.screens[scr] with pending := some start } } }
      (s.lco.screens[scr].placed = false → exec (.setChain t) s = .next (u.answered 0x0C tag rest [9])) ∧
      (s.lco.screens[scr].placed = true →
        (∀ f r, s.lco.checkChain scr start = some (f, r) →
          exec (.setChain t) s = .next (u.answered 0x0C tag rest [6, f.code, byte r.val])) ∧
        (s.lco.checkChain scr start = none →
          ((∀ forced, s.wpc.power[scr] ≠ .standby forced) →
            exec (.setChain t) s = .next (waiting.answered 0x0C tag rest [0, 0])) ∧
          ((∃ forced, s.wpc.power[scr] = .standby forced) →
            let applied : State := { u with
              lco := { s.lco with
                screens := s.lco.screens.set scr { s.lco.screens[scr] with active := start, pending := none } }
              clp := s.clp.queueNotice (.chainApplied scr start true) }
            let lit : State := if applied.dark scr = false ∧ s.wpc.desk ≠ .asleep then { applied with
                wpc := { s.wpc with power := s.wpc.power.set scr .active }
                clp := applied.clp.queueNotice (.screenPower scr .active s.wpc.power[scr]) } else applied
            let told : State :=
              if s.lco.screens[scr].rect.contains s.ptu.px s.ptu.py = true then lit.reevaluate else lit
            exec (.setChain t) s = .next ((waiting.applyAtOnce State.reevaluate scr).answered 0x0C tag rest [0, 1]) ∧
            (s.lco.CanvasLaw → s.PointerLaw →
              (∀ q ∈ s.lco.chain start ++ s.lco.activeChain scr, ∀ tile, s.lco.tiles[q] = some tile →
                tile.flipWaits = false) →
              waiting.applyAtOnce State.reevaluate scr = told))))

/-- R133 to R136: a frame start with nothing waiting draws the screen. A pending chain first becomes the active one, its released
records losing their flip pending, and every flip waiting in the active chain is applied, with their notices in that order; the
frame drawn is then that of the chain and the flips applied, and darkness and the hit target are re-evaluated. A screen in STANDBY
has no frame starts. FLIP TILE sets flip pending on a SINGLE tile with an alternate in an active chain. The second clause is for a
dwell setting other than 0. `drawn` is log 14's field. -/
def Obligations.FrameStartsApplyWhatWaits : Prop :=
  (∀ (t : Time) (scr : ScreenId) (s : State),
    let screen := s.lco.screens[scr]
    let waits (i : TileId) : Prop := ∃ tile, s.lco.tiles[i] = some tile ∧ tile.flipWaits = true
    ((∃ forced, s.wpc.power[scr] = .standby forced) → exec (.frameStart t scr) s = .next (s.at t)) ∧
    ((∀ forced, s.wpc.power[scr] ≠ .standby forced) →
      (screen.pending = none → (∀ r ∈ s.lco.activeChain scr, ¬ waits r) →
        exec (.frameStart t scr) s = .next { s.at t with
          lco := { s.lco with screens := s.lco.screens.set scr { screen with drawn := some (s.frame scr) } } }) ∧
      (screen.pending ≠ none ∨ (∃ r ∈ s.lco.activeChain scr, waits r) → s.ptu.dwell ≠ 0 →
        let start := screen.pending.getD screen.active
        let chain := s.lco.chain start
        let told : Clp := match screen.pending with
          | some start => s.clp.queueNotice (.chainApplied scr start false)
          | none => s.clp
        ∃ r, exec (.frameStart t scr) s = .next r ∧ (s.at t).FollowsOn r ∧
          r.lco = { s.lco with screens := r.lco.screens, tiles := r.lco.tiles } ∧
          r.lco.screens[scr].active = start ∧ r.lco.screens[scr].pending = none ∧
          (∀ o : ScreenId, o ≠ scr → r.lco.screens[o] = s.lco.screens[o]) ∧
          (∀ i : TileId, r.lco.tiles[i] = (s.lco.tiles[i]).map (fun tile =>
            if i ∈ chain then (if tile.flipWaits then tile.flipped else tile)
            else if i ∈ s.lco.activeChain scr then tile.withFlipPending false else tile)) ∧
          told.outbound <+: r.clp.outbound ∧
          (chain.Nodup → (chain.foldl (fun q i => match s.lco.tiles[i] with
            | some tile => if tile.flipWaits then q.queueNotice (.flipApplied scr i tile.flipped.showing) else q
            | none => q) told).outbound <+: r.clp.outbound) ∧
          ((∀ forced, r.wpc.power[scr] ≠ .standby forced) → r.lco.screens[scr].drawn = some (State.frame { s with
            lco := { s.lco with
              tiles := r.lco.tiles, screens := s.lco.screens.set scr { screen with active := start, pending := none } } }
            scr))))) ∧
  (∀ (tile : Tile) p a showing v b, tile.kind = .single p a showing true v b →
    let other : Showing := if showing = .primary then .alternate else .primary
    tile.flipWaits = true ∧ tile.withFlipPending false = { tile with kind := .single p a showing false v b } ∧
    tile.flipped = { tile with kind := .single p a other false v b } ∧ tile.flipped.showing = other) ∧
  ∀ (t : Time) (s : State) (tag : Byte) (rest : List Request) (r : TileId), s.Asks 0x0F tag [byte r.val] rest →
    ((∀ tile p a showing f v b, s.lco.tiles[r] = some tile → tile.kind = .single p (some a) showing f v b →
        ∀ scr : ScreenId, r ∉ s.lco.activeChain scr) →
      exec (.flipTile t) s = .next ((s.at t).answered 0x0F tag rest [9])) ∧
    ∀ tile p a showing f v b (scr : ScreenId), s.lco.tiles[r] = some tile → tile.kind = .single p (some a) showing f v b →
      r ∈ s.lco.activeChain scr → (∀ o : ScreenId, o < scr → r ∉ s.lco.activeChain o) →
      ((∀ forced, s.wpc.power[scr] ≠ .standby forced) →
        exec (.flipTile t) s = .next ({ s.at t with lco := { s.lco with
          tiles := s.lco.tiles.set r (some { tile with kind := .single p (some a) showing true v b }) } }.answered
            0x0F tag rest [0, showing.code, 1])) ∧
      ((∃ forced, s.wpc.power[scr] = .standby forced) → s.lco.screens[scr].pending = none → s.ptu.dwell ≠ 0 →
        ∃ q, exec (.flipTile t) s = .next q ∧
          q.lco.tiles[r] = some { tile with kind := .single p (some a) showing.toggle false v b } ∧ q.clp.inbound = rest ∧
          ∃ notices, q.clp.outbound = s.clp.outbound ++ notices ++
            [{ kind := 0x8F, tag := tag, payload := [0, showing.toggle.code, 0] }])

/-- R137 to R139: SET BORDER COLOURS writes the three colours. A pixel of a frame shows the last tile of the active chain that
holds it, and the background where none does: a FILL tile its colour, a SINGLE tile its showing head under its view, a GRID tile the
head of the pixel's cell, and the background where the cell is EMPTY, the head has no signal, or the source pixel lies off the head.
Near an edge of the tile's or cell's rectangle a border covers that where its computer is the focus computer or the pending
target. -/
def Obligations.FramesDrawTilesAndBorders : Prop :=
  (∀ (t : Time) (s : State) (tag f0 f1 f2 l0 l1 l2 p0 p1 p2 : Byte) (rest : List Request),
    s.Asks 0x08 tag [f0, f1, f2, l0, l1, l2, p0, p1, p2] rest →
    exec (.setBorderColours t) s = .next ({ s.at t with lco := { s.lco with borders := {
      focus := { red := f0, green := f1, blue := f2 }, lock := { red := l0, green := l1, blue := l2 },
      pending := { red := p0, green := p1, blue := p2 } } } }.answered 0x08 tag rest [0])) ∧
  ∀ (s : State) (scr : ScreenId) (x y : Nat), s.lco.TileLaw →
    let pixel := (s.frame scr).pixelAt x y
    let background : Pixel := .colour s.lco.screens[scr].background
    let holds (r : TileId) : Prop := ∃ tile, s.lco.tiles[r] = some tile ∧ tile.rect.contains x y = true
    let shows (rect : Rect) (view : View) (b : Nat) (h : HeadId) : Pixel :=
      let head := s.lco.heads[h]
      let size := head.size.getD (0, 0)
      let region : Rect := match view with
        | .whole => { x := 0, y := 0, w := size.1, h := size.2 }
        | .crop c => c
      let sx := region.x + (x - rect.x) * region.w / rect.w
      let sy := region.y + (y - rect.y) * region.h / rect.h
      let near := x < rect.x + b ∨ rect.x + rect.w ≤ x + b ∨ y < rect.y + b ∨ rect.y + rect.h ≤ y + b
      if near ∧ head.owner = some s.fcu.focus then
        .colour (if s.fcu.lock = .none then s.lco.borders.focus else s.lco.borders.lock)
      else if near ∧ head.owner ≠ none ∧ s.fcu.pending.map Pending.target = head.owner then .colour s.lco.borders.pending
      else if sx < size.1 ∧ sy < size.2 then .source h sx sy else background
    ((∀ r ∈ s.lco.activeChain scr, ¬ holds r) → pixel = background) ∧
    ∀ before r after tile, s.lco.activeChain scr = before ++ r :: after → s.lco.tiles[r] = some tile →
      tile.rect.contains x y = true → (∀ q ∈ after, ¬ holds q) →
      (∀ colour, tile.kind = .fill colour → pixel = .colour colour) ∧
      (∀ p a f view b, tile.kind = .single p a .primary f view b → pixel = shows tile.rect view b p) ∧
      (∀ p a f view b, tile.kind = .single p (some a) .alternate f view b → pixel = shows tile.rect view b a) ∧
      ∀ columns rows cells b, tile.kind = .grid columns rows cells b →
        let i := cellAt tile.rect columns rows x y
        (∀ h, cells[i]? = some (some h) → pixel = shows (cellRect tile.rect columns rows i) .whole b h) ∧
        (cells[i]? = some none → pixel = background)

/-! ## Presets -/

/-- R141, R142, R181: a preset record is written whole or emptied, and READ ENTRY gives it back. -/
def Obligations.PresetsReadBackAsWritten : Prop :=
  ∀ (t : Time) (s : State) (tag : Byte) (rest : List Request) (n : PresetId),
    let fields (p : Preset) : List Byte :=
      p.screens.toList.flatMap (fun e => match e with
        | .keep => [0xFE, 0xFF]
        | .chain none => [0xFF, 0xFF]
        | .chain (some r) => [byte r.val, 0]) ++
      [match p.focus with
        | some c => byte c.val
        | none => 0xFF,
       match p.next with
        | some m => byte m.val
        | none => 0xFF]
    (∀ p, s.Asks 0x0D tag (byte n.val :: fields p) rest → exec (.writePreset t) s =
      .next ({ s.at t with lco := { s.lco with presets := s.lco.presets.set n (some p) } }.answered 0x0D tag rest [0])) ∧
    (s.Asks 0x0D tag [byte n.val] rest → exec (.writePreset t) s =
      .next ({ s.at t with lco := { s.lco with presets := s.lco.presets.set n none } }.answered 0x0D tag rest [0])) ∧
    (s.Asks 0x1E tag [2, byte n.val] rest →
      (s.lco.presets[n] = none → exec (.readEntry t) s = .next ((s.at t).answered 0x1E tag rest [0, byte n.val, 0])) ∧
      ∀ p, s.lco.presets[n] = some p →
        exec (.readEntry t) s = .next ((s.at t).answered 0x1E tag rest ([0, byte n.val, 1] ++ fields p)))

/-- R144 to R147: APPLY PRESET of an EMPTY preset is refused. A WRITTEN one becomes the last applied preset; its screens are taken
in ascending order, each on what the one before left: a screen it keeps is kept, a chain comes to its outcome, and a record that
two screens name is owned elsewhere for the higher; a focus computer is asked for last. PRESET RESULT precedes the reply, which
counts the failures. -/
def Obligations.ApplyPresetTakesItsScreens : Prop :=
  ∀ (t : Time) (s : State) (tag : Byte) (rest : List Request) (n : PresetId), s.Asks 0x0E tag [byte n.val] rest →
    let u := s.at t
    let applied : State := { u with lco := { s.lco with lastPreset := some n } }
    (s.lco.presets[n] = none → exec (.applyPreset t) s = .next (u.answered 0x0E tag rest [9])) ∧
    ∀ p, s.lco.presets[n] = some p →
      ((∀ scr : ScreenId, p.screens[scr] = .keep) →
        (p.focus = none → exec (.applyPreset t) s =
          .next ((applied.notify (.presetResult n (List.replicate 24 0) 3)).answered 0x0E tag rest [0, 0, 3])) ∧
        ∀ c, p.focus = some c →
          let outcome := s.fcu.judge c .preset false
          exec (.applyPreset t) s =
            .next (((applied.requestFocus c .preset false).notify (.presetResult n (List.replicate 24 0) outcome.code)).answered
              0x0E tag rest [0, 0, outcome.code])) ∧
      (∀ (scr : ScreenId) (start : Option TileId), p.focus = none → p.screens[scr] = .chain start →
        (∀ o : ScreenId, o ≠ scr → p.screens[o] = .keep) →
        let bytes (mine : List Byte) : List Byte := allScreens.flatMap (fun o => if o = scr then mine else [0, 0, 0])
        let result (v : State) (mine : List Byte) (failures : Byte) : State :=
          (v.notify (.presetResult n (bytes mine) 3)).answered 0x0E tag rest [0, failures, 3]
        let waiting : State := { u with lco := { s.lco with
          lastPreset := some n, screens := s.lco.screens.set scr { s.lco.screens[scr] with pending := some start } } }
        (s.lco.screens[scr].placed = false → exec (.applyPreset t) s = .next (result applied [3, 0, 0] 1)) ∧
        (s.lco.screens[scr].placed = true →
          (∀ f r, s.lco.checkChain scr start = some (f, r) →
            exec (.applyPreset t) s = .next (result applied [4, f.code, byte r.val] 1)) ∧
          (s.lco.checkChain scr start = none →
            ((∀ forced, s.wpc.power[scr] ≠ .standby forced) →
              exec (.applyPreset t) s = .next (result waiting [1, 0, 0] 0)) ∧
            ((∃ forced, s.wpc.power[scr] = .standby forced) →
              exec (.applyPreset t) s = .next (result (waiting.applyAtOnce State.reevaluate scr) [2, 0, 0] 0))))) ∧
      (let entry (v : State × List Byte × Nat) (o : ScreenId) : State × List Byte × Nat := match p.screens[o] with
         | .keep => (v.1, v.2.1 ++ [0, 0, 0], v.2.2)
         | .chain start =>
           if v.1.lco.screens[o].placed = false then (v.1, v.2.1 ++ [3, 0, 0], v.2.2 + 1)
           else match v.1.lco.checkChain o start, v.1.wpc.power[o] with
             | some (f, r), _ => (v.1, v.2.1 ++ [4, f.code, byte r.val], v.2.2 + 1)
             | none, power =>
               let waiting : State := { v.1 with lco := { v.1.lco with
                 screens := v.1.lco.screens.set o { v.1.lco.screens[o] with pending := some start } } }
               match power with
               | .standby _ => (waiting.applyAtOnce State.reevaluate o, v.2.1 ++ [2, 0, 0], v.2.2)
               | _ => (waiting, v.2.1 ++ [1, 0, 0], v.2.2)
       let taken := allScreens.foldl entry (applied, [], 0)
       let focused : State × Byte := match p.focus with
         | none => (taken.1, 3)
         | some c => (taken.1.requestFocus c .preset false, match taken.1.fcu.judge c .preset false with
           | .done => 0
           | .refusedLocked => 1
           | .ignored => 2)
       exec (.applyPreset t) s = .next ((focused.1.notify (.presetResult n taken.2.1 focused.2)).answered 0x0E tag rest
         [0, byte taken.2.2, focused.2])) ∧
      ∀ (a b : ScreenId) (r : TileId), a < b → p.focus = none → p.screens[a] = .chain (some r) →
        p.screens[b] = .chain (some r) → (∀ o : ScreenId, o ≠ a → o ≠ b → p.screens[o] = .keep) →
        s.lco.screens[a].placed = true → s.lco.screens[b].placed = true → s.lco.checkChain a (some r) = none →
        (∀ forced, s.wpc.power[a] ≠ .standby forced) →
        exec (.applyPreset t) s = .next ((State.notify (.presetResult n
            (allScreens.flatMap (fun o => if o = a then [1, 0, 0] else if o = b then [4, 4, byte r.val] else [0, 0, 0])) 3)
          { u with lco := { s.lco with
            lastPreset := some n, screens := s.lco.screens.set a { s.lco.screens[a] with pending := some (some r) } } }).answered
          0x0E tag rest [0, 1, 3])

/-! ## Wakes, desk sleep, screen power -/

/-- R164: SET POWER TIMING with six bytes writes the three clamped timings; with none it writes nothing; both reply with the
timings and change nothing else, so a deadline already running keeps its time. Another length is refused. -/
def Obligations.SetPowerTimingWritesAndReads : Prop :=
  ∀ (t : Time) (s : State) (tag : Byte) (payload : List Byte) (rest : List Request), s.Asks 0x09 tag payload rest →
    let values (w : Wpc) : List Byte :=
      [0, byte w.wakeTimeout, byte (w.wakeTimeout / 256), byte w.sleepTimeout, byte (w.sleepTimeout / 256),
        byte w.standbyHold, byte (w.standbyHold / 256)]
    ∃ now, s.clock ≤ now ∧
      (payload = [] → exec (.setPowerTiming t) s = .next ({ s with clock := now }.answered 0x09 tag rest (values s.wpc))) ∧
      (∀ a0 a1 b0 b1 c0 c1 : Byte, payload = [a0, a1, b0, b1, c0, c1] →
        let wpc : Wpc := { s.wpc with
          wakeTimeout := max 200 (min 10000 (a0.toNat + 256 * a1.toNat))
          sleepTimeout := max 1000 (min 60000 (b0.toNat + 256 * b1.toNat))
          standbyHold := min 600 (c0.toNat + 256 * c1.toNat) }
        exec (.setPowerTiming t) s = .next ({ s with clock := now, wpc := wpc }.answered 0x09 tag rest (values wpc))) ∧
      (payload ≠ [] → payload.length ≠ 6 →
        exec (.setPowerTiming t) s = .next ({ s with clock := now }.answered 0x09 tag rest [2]))

/-- R151, R153, R107, R154: a wake of any cause starts an attempt on a SUSPENDED port that permits it, sends NO PERMISSION for one
that does not, and changes nothing on any other. WAKE COMPUTER starts or joins an attempt, and is refused where there is none. An
attempt's deadline, reached, empties the port's queue, sets both owed flags and takes the port back to SUSPENDED; before its time,
or with no attempt, the expiry changes nothing (logs 1 and 3). -/
def Obligations.WakesAreAttemptedAndExpire : Prop :=
  ∀ (t : Time) (s : State) (c : Comp),
    let r := s.comp c
    let u := s.at t
    let now := max s.clock t
    (∀ (re : State → State) (cause : WakeCause),
      (r.port = .suspended → r.remoteWake = true → s.wake re c cause =
        State.changePort re c .resuming { s with wpc := { s.wpc with wakes := s.wpc.wakes.set c (some (WakeAttempt.mk cause
          s.clock (s.clock + s.wpc.wakeTimeout))) } }) ∧
      (r.port = .suspended → r.remoteWake = false →
        s.wake re c cause = { s with clp := s.clp.queueNotice (.wakeResult c .noPermission cause 0) }) ∧
      (r.port ≠ .suspended → s.wake re c cause = s)) ∧
    (∀ (tag : Byte) (rest : List Request), s.Asks 0x12 tag [byte c.val] rest →
      let attempt : WakeAttempt := { cause := .host, start := now, deadline := now + s.wpc.wakeTimeout }
      let attempted : State := { u with wpc := { s.wpc with wakes := s.wpc.wakes.set c (some attempt) } }
      (r.port = .suspended → r.remoteWake = true → exec (.wakeComputer t) s =
        .next ((attempted.changePort State.reevaluate c .resuming).answered 0x12 tag rest [0, 0])) ∧
      (r.port = .suspended → r.remoteWake = false →
        exec (.wakeComputer t) s = .next (u.answered 0x12 tag rest [10])) ∧
      (r.port = .resuming → exec (.wakeComputer t) s = .next (u.answered 0x12 tag rest [0, 1])) ∧
      (r.port ≠ .suspended → r.port ≠ .resuming → exec (.wakeComputer t) s = .next (u.answered 0x12 tag rest [9]))) ∧
    (∀ a, s.wpc.wakes[c] = some a → r.port = .resuming →
      (a.deadline ≤ now → exec (.wakeAttemptDeadlineExpiry t c) s =
        .next (State.changePort State.reevaluate c .suspended { u with cps := s.cps.set c { r with
          queue := [], owedKeyboard := true, owedPointer := true, lastSnapshot := none } })) ∧
      (now < a.deadline → exec (.wakeAttemptDeadlineExpiry t c) s = .next u)) ∧
    (s.wpc.wakes[c] = none ∨ r.port ≠ .resuming → exec (.wakeAttemptDeadlineExpiry t c) s = .next u)

/-- R156 to R160: DESK SLEEP asks every CONFIGURED computer that sleeps with the desk, or puts the desk to sleep at once where
there is none; DESK WAKE cancels or wakes; the desk deadline puts the desk to sleep all the same. Entering ASLEEP takes every
screen that was ACTIVE or in DARK HOLD to STANDBY with its forced mark set, and leaves the others' marks (R162). The queues of the
asked computers have room for the two codes. A desk deadline before its time changes nothing (log 1), nor outside SLEEP REQUESTED
(log 3). In a notice of AWAKE the not-asleep set is read over the awaited set before its emptying (log 27). O53 says what
`leaveForced` does. -/
def Obligations.DeskSleepsAndWakes : Prop :=
  (∀ (t : Time) (s : State) (tag : Byte) (rest : List Request), s.Asks 0x13 tag [] rest →
    let asked (c : Comp) : Bool := decide ((s.comp c).port = .configured) && (s.comp c).sleepsWithDesk
    (s.wpc.desk ≠ .awake → exec (.deskSleep t) s = .next ((s.at t).answered 0x13 tag rest [9])) ∧
    (s.wpc.desk = .awake → (∀ c, asked c = false) →
      ∃ r, exec (.deskSleep t) s = .next r ∧ r.wpc.desk = .asleep ∧ r.wpc.awaited = 0 ∧ r.wpc.deskDeadline = none ∧
        r.diu = s.diu ∧ r.hks = s.hks ∧ r.rtf.rules = s.rtf.rules ∧
        (∀ scr : ScreenId, r.wpc.power[scr] = match s.wpc.power[scr] with
          | .standby forced => .standby forced
          | _ => .standby true) ∧ r.clp.inbound = rest ∧
        ∃ q, r.clp.outbound = s.clp.outbound ++ q ++ [{ kind := 0x93, tag := tag, payload := [0, 2] }]) ∧
    (∀ set : CompSet, (∀ c : Comp, set.getLsbD c.val = asked c) → s.wpc.desk = .awake → (∃ c, asked c = true) →
      (∀ c : Comp, asked c = true → (s.comp c).queue.length ≤ 14) →
      ∃ cps, exec (.deskSleep t) s = .next ({ s.at t with
          cps := cps
          wpc := { s.wpc with
            desk := .sleepRequested, awaited := set, deskDeadline := some (max s.clock t + s.wpc.sleepTimeout) }
          clp := s.clp.queueNotice (.deskState .sleepRequested .awake .request set set) }.answered 0x13 tag rest [0, 1]) ∧
        ∀ c : Comp, cps[c] = if asked c then { s.comp c with
          queue := (s.comp c).queue ++ [.system .sleep, .system .none] } else s.comp c)) ∧
  (∀ (t : Time) (s : State) (tag : Byte) (rest : List Request), s.Asks 0x14 tag [] rest →
    let told (c : Comp) : Bool := s.wpc.awaited.getLsbD c.val && decide ((s.comp c).port = .configured)
    let woken (u : State) : State := { u with
      wpc := { s.wpc with desk := .awake, awaited := 0, deskDeadline := if s.wpc.desk = .asleep then s.wpc.deskDeadline else none }
      clp := s.clp.queueNotice (.deskState .awake s.wpc.desk .hostWake s.wpc.awaited (s.notAsleep s.wpc.awaited)) }
    (s.wpc.desk = .awake → exec (.deskWake t) s = .next ((s.at t).answered 0x14 tag rest [0, 0])) ∧
    (s.wpc.desk = .asleep → exec (.deskWake t) s =
      .next ((allScreens.foldl State.leaveForced (woken (s.at t))).answered 0x14 tag rest [0, 0])) ∧
    (s.wpc.desk = .sleepRequested → (∀ c : Comp, told c = true → (s.comp c).queue.length ≤ 14) →
      ∃ cps, exec (.deskWake t) s = .next ((woken { s.at t with cps := cps }).answered 0x14 tag rest [0, 0]) ∧
        ∀ c : Comp, cps[c] = if told c then { s.comp c with
          queue := (s.comp c).queue ++ [.system .wake, .system .none] } else s.comp c)) ∧
  (∀ (t : Time) (s : State),
    (∀ deadline, s.wpc.desk = .sleepRequested → s.wpc.deskDeadline = some deadline → exec (.deskDeadlineExpiry t) s =
      .next (if deadline ≤ max s.clock t then (s.at t).enterAsleep State.reevaluate .timeout else s.at t)) ∧
    (s.wpc.desk ≠ .sleepRequested ∨ s.wpc.deskDeadline = none → exec (.deskDeadlineExpiry t) s = .next (s.at t))) ∧
  ∀ (s : State) (cause : DeskCause),
    let r := s.enterAsleep State.reevaluate cause
    r.wpc.desk = .asleep ∧ r.wpc.deskDeadline = none ∧ r.wpc.awaited = s.wpc.awaited ∧
    (∀ scr : ScreenId, r.wpc.power[scr] = match s.wpc.power[scr] with
      | .standby forced => .standby forced
      | _ => .standby true) ∧
    (s.clp.queueNotice (.deskState .asleep s.wpc.desk cause s.wpc.awaited (s.notAsleep s.wpc.awaited))).outbound <+: r.clp.outbound

/-- R161 to R163: a screen is dark where it is not always-on and shows no LIVE head of a CONFIGURED owner. A re-evaluation moves
its power state to match, with its SCREEN POWER notice, and no screen while the desk is ASLEEP; a hold deadline reached takes it
to STANDBY. When the desk leaves ASLEEP a screen that is not dark becomes ACTIVE, a dark one that was forced into STANDBY holds
afresh or stays with a standby hold of 0, and every forced mark is cleared. The clauses into STANDBY are for a screen with no
chain and no flip waiting, and for a pending chain, which is applied at once after the SCREEN POWER notice. A hold deadline before
its time changes nothing (log 1), nor outside DARK HOLD (log 3). `drawn` is log 14's field. -/
def Obligations.DarknessMovesThePowerState : Prop :=
  ∀ (s : State) (scr : ScreenId),
    let screen := s.lco.screens[scr]
    let power := s.wpc.power[scr]
    let moved (p : Power) (u : State) : State := { u with
      wpc := { u.wpc with power := u.wpc.power.set scr p }, clp := u.clp.queueNotice (.screenPower scr p power) }
    let darkened (u : State) : State := { moved (.standby false) u with
      lco := { u.lco with screens := u.lco.screens.set scr { screen with drawn := none } } }
    let idle := screen.pending = none ∧
      ∀ r ∈ s.lco.activeChain scr, ∀ tile, s.lco.tiles[r] = some tile → tile.flipWaits = false
    let re := s.reevaluateScreen State.reevaluate scr
    (s.dark scr = true ↔ screen.alwaysOn = false ∧ ∀ r ∈ s.lco.activeChain scr, ∀ tile, s.lco.tiles[r] = some tile →
      ∀ shown ∈ tile.shown, ∀ c, s.lco.heads[shown.2.2].owner = some c → s.lco.heads[shown.2.2].size ≠ none →
        (s.comp c).port ≠ .configured) ∧
    (s.wpc.desk = .asleep → re = s) ∧
    (s.wpc.desk ≠ .asleep →
      (power = .active → s.dark scr = false → re = s) ∧
      (power = .active → s.dark scr = true → s.wpc.standbyHold ≠ 0 →
        re = moved (.darkHold (s.clock + s.wpc.standbyHold * 1000)) s) ∧
      (power = .active → s.dark scr = true → s.wpc.standbyHold = 0 → idle → re = darkened s) ∧
      (∀ d, power = .darkHold d → re = if s.dark scr then s else moved .active s) ∧
      (∀ f, power = .standby f → re = if s.dark scr then s else moved .active s)) ∧
    (∀ forced, power = .standby forced → s.leaveForced scr =
      if s.dark scr = false then moved .active s
      else if forced = true ∧ s.wpc.standbyHold ≠ 0 then moved (.darkHold (s.clock + s.wpc.standbyHold * 1000)) s
      else { s with wpc := { s.wpc with power := s.wpc.power.set scr (.standby false) } }) ∧
    ((∀ forced, power ≠ .standby forced) → s.leaveForced scr = s) ∧
    ∀ t : Time,
      (∀ d, power = .darkHold d →
        (max s.clock t < d → exec (.holdDeadlineExpiry t scr) s = .next (s.at t)) ∧
        (d ≤ max s.clock t →
          (idle → exec (.holdDeadlineExpiry t scr) s = .next (darkened (s.at t))) ∧
          (∀ start, screen.pending = some start → s.ptu.dwell ≠ 0 →
            ∃ r, exec (.holdDeadlineExpiry t scr) s = .next r ∧ (s.at t).FollowsOn r ∧ r.lco.screens[scr].active = start ∧
              r.lco.screens[scr].pending = none ∧ (∀ d, r.wpc.power[scr] ≠ .darkHold d) ∧
              ((s.clp.queueNotice (.screenPower scr (.standby false) power)).queueNotice
                (.chainApplied scr start true)).outbound <+: r.clp.outbound))) ∧
      ((∀ d, power ≠ .darkHold d) → exec (.holdDeadlineExpiry t scr) s = .next (s.at t))

/-- R158, R96, R162: an ASLEEP desk passes breaks, consumes small movements and the wheel, which change nothing, and is woken by a
key make, a modifier's make, a button make or a large movement, which reaches no block behind the gate but that a button's pair
joins the stale marks: the awaited set is emptied, the desk is AWAKE with its notice, the screens leave forced standby, and a
SUSPENDED focus computer is woken. The notice's not-asleep set is read over the awaited set before its emptying (log 27). In SLEEP
REQUESTED a make or a large movement first cancels the sleep; the awaited computers' queues have room for the two codes. -/
def Obligations.TheGateWakesTheDesk : Prop :=
  ∀ (t : Time) (p : DeskPortId) (s : State),
    let woken (u : State) : State :=
      let v := allScreens.foldl State.leaveForced { u with
        wpc := { s.wpc with desk := .awake, awaited := 0 }
        clp := s.clp.queueNotice (.deskState .awake .asleep .input s.wpc.awaited (s.notAsleep s.wpc.awaited)) }
      if (s.comp s.fcu.focus).port = .suspended then v.wake State.reevaluate s.fcu.focus .desk else v
    let marked (q : DeskPortId) (b : Fin 5) (v : State) : State :=
      { v with ptu := { v.ptu with stale := v.ptu.stale.set q (v.ptu.stale[q] ||| (1#5 <<< b.val)) } }
    let clean (keys : List Byte) : Prop := keys.length ≤ 6 ∧ keys.Nodup ∧ ∀ k ∈ keys, 4 ≤ k ∧ isModifier k = false
    let report (m : Byte) (keys : List Byte) : Instr :=
      .keyboardReport t p (m :: 0 :: (keys ++ List.replicate (6 - keys.length) 0))
    (s.wpc.desk = .asleep →
      (∀ (b bx bY w : Byte), s.diu[p] = .pointer (b.setWidth 5) →
        (max (-127) bx.toInt).natAbs + (max (-127) bY.toInt).natAbs < 4 →
        exec (.pointerReport t p [b, bx, bY, w]) s = .next (s.at t)) ∧
      (∀ (b bx bY : Byte), s.diu[p] = .pointer (b.setWidth 5) →
        4 ≤ (max (-127) bx.toInt).natAbs + (max (-127) bY.toInt).natAbs →
        exec (.pointerReport t p [b, bx, bY]) s = .next (woken (s.at t))) ∧
      (∀ (held : Buttons) (b : Fin 5), s.diu[p] = .pointer held → held.getLsbD b.val = false →
        exec (.pointerReport t p [(held ||| (1#5 <<< b.val)).setWidth 8, 0, 0]) s =
          .next (marked p b (woken { s.at t with diu := s.diu.set p (.pointer (held ||| (1#5 <<< b.val))) }))) ∧
      (∀ (m u : Byte) (before after : List Byte), s.diu[p] = .keyboard m (before ++ after) → clean (before ++ u :: after) →
        exec (report m (before ++ u :: after)) s =
          .next (woken { s.at t with diu := s.diu.set p (.keyboard m (before ++ u :: after)) })) ∧
      (∀ (m : Byte) (keys : List Byte) (k : Fin 8), s.diu[p] = .keyboard m keys → clean keys → m.getLsbD k.val = false →
        exec (report (m ||| (1#8 <<< k.val)) keys) s =
          .next (woken { s.at t with diu := s.diu.set p (.keyboard (m ||| (1#8 <<< k.val)) keys) })) ∧
      ∀ e : DeskEvent, s.gate e = match e with
        | .keyMake _ _ => (woken s, false)
        | .buttonMake q b => (marked q b (woken s), false)
        | .motion _ dx dy => (if 4 ≤ dx.natAbs + dy.natAbs then woken s else s, false)
        | .wheel _ _ => (s, false)
        | .keyBreak _ _ => (s, true)
        | .buttonBreak _ _ => (s, true)) ∧
    (s.wpc.desk = .sleepRequested →
      (∀ e : DeskEvent, s.gate e = (if (match e with
        | .keyMake _ _ => true
        | .buttonMake _ _ => true
        | .motion _ dx dy => decide (4 ≤ dx.natAbs + dy.natAbs)
        | _ => false) then s.cancelSleep .input else s, true)) ∧
      let told (c : Comp) : Bool := s.wpc.awaited.getLsbD c.val && decide ((s.comp c).port = .configured)
      (∀ c : Comp, told c = true → (s.comp c).queue.length ≤ 14) →
        ∃ cps, s.cancelSleep .input = { s with
            cps := cps
            wpc := { s.wpc with desk := .awake, awaited := 0, deskDeadline := none }
            clp := s.clp.queueNotice
              (.deskState .awake .sleepRequested .input s.wpc.awaited (s.notAsleep s.wpc.awaited)) } ∧
          ∀ c : Comp, cps[c] = if told c then { s.comp c with
            queue := (s.comp c).queue ++ [.system .wake, .system .none] } else s.comp c) ∧
    (s.wpc.desk = .awake → ∀ e : DeskEvent, s.gate e = (s, true))

/-! ## Panels -/

/-- R167 to R172: a scan empties the table and probes the four addresses in turn, its first probe after a transaction on the bus,
which ends with no effect (a probe of an earlier scan: log 21); a read moves the button states in ascending order, and each press
asks for focus on what the one before it left and then sends its PANEL notice, after those of the change; a write carries all ones
to the low port and the pattern to the high port, and records the pattern, and another is due where the pattern was found changed
while it was on the bus or is so at its end (log 11); a read or a write not acknowledged loses the panel. With the bus free the
next transaction starts: a probe of a running scan, else the lowest panel's read, else the lowest panel's write (logs 10 and 11).
The effects of a completed read or write are taken before the next transaction starts, by the model's choice (log 29). A completion
of a transaction that is not on the bus changes nothing (log 3). -/
def Obligations.ThePanelBusRunsItsTransactions : Prop :=
  (∀ (pattern : Byte) (psc : Psc),
    (∀ a, psc.scanner = .scanning a → psc.startNext pattern = { psc with bus := some (.probe a) }) ∧
    (psc.scanner = .idle →
      (∀ before p after, psc.panels = before ++ p :: after → p.present = true → p.readDue = true →
        (∀ q ∈ before, ¬ (q.present = true ∧ q.readDue = true)) →
        psc.startNext pattern = { psc with
          panels := before ++ { p with readDue := false } :: after, bus := some (.read before.length) }) ∧
      ((∀ q ∈ psc.panels, ¬ (q.present = true ∧ q.readDue = true)) →
        (∀ before p after, psc.panels = before ++ p :: after → p.present = true → p.writeDue = true →
          (∀ q ∈ before, ¬ (q.present = true ∧ q.writeDue = true)) →
          psc.startNext pattern = { psc with bus := some (.write before.length 0xFF pattern false) }) ∧
        ((∀ q ∈ psc.panels, ¬ (q.present = true ∧ q.writeDue = true)) → psc.startNext pattern = psc)))) ∧
  (∀ (t : Time) (s : State) (tag : Byte) (rest : List Request), s.Asks 0x15 tag [] rest →
    ((∃ a, s.psc.scanner = .scanning a) → exec (.scanPanels t) s = .next ((s.at t).answered 0x15 tag rest [9])) ∧
    (s.psc.scanner = .idle → exec (.scanPanels t) s = .next ({ s.at t with psc := {
      panels := [], scanner := .scanning 0, bus := some (match s.psc.bus with
        | none => .probe 0
        | some (.probe a) => .earlierProbe a
        | some on => on) } }.answered 0x15 tag rest [0]))) ∧
  (∀ (t : Time) (s : State) (ack : Bool),
    (∀ a : Fin 4, s.psc.bus = some (.probe a) →
      let found : Panel := { address := a, present := true, buttons := .replicate 8 .held, lastPattern := none,
                             readDue := false, writeDue := true }
      let panels := if ack then s.psc.panels ++ [found] else s.psc.panels
      (a.val < 3 → exec (.probeCompletes t ack) s = .next { s.at t with
        psc := { panels := panels, scanner := .scanning (a + 1), bus := some (.probe (a + 1)) } }) ∧
      (a = 3 → exec (.probeCompletes t ack) s = .next { s.at t with
        psc := Psc.startNext (s.at t).pattern { panels := panels, scanner := .idle, bus := none }
        clp := s.clp.queueNotice (.scanDone panels.length (foundAddresses panels)) })) ∧
    (∀ a, s.psc.bus = some (.earlierProbe a) → s.psc.scanner = .scanning 0 → exec (.probeCompletes t ack) s =
      .next { s.at t with psc := { s.psc with bus := some (.probe 0) } }) ∧
    ((∀ a, s.psc.bus ≠ some (.probe a) ∧ s.psc.bus ≠ some (.earlierProbe a)) →
      exec (.probeCompletes t ack) s = .next (s.at t))) ∧
  (∀ (t : Time) (s : State) (low high : Byte) (n : Nat) (p : Panel), s.psc.bus = some (.read n) → s.psc.panels[n]? = some p →
    s.psc.scanner = .idle →
    let after (p' : Panel) : Psc :=
      Psc.startNext (s.at t).pattern { s.psc with panels := s.psc.panels.set n p', bus := none }
    let down (b : Fin 8) : Prop := low.getLsbD b.val = false
    let next (b : Fin 8) : ButtonState := match p.buttons[b] with
      | .released => if low.getLsbD b.val then .released else .pressSeen
      | _ => if low.getLsbD b.val then .released else .held
    let read : Panel := { p with
      buttons := #v[next 0, next 1, next 2, next 3, next 4, next 5, next 6, next 7] }
    let moved (v : State) (b : Fin 8) : State := { v with psc := { v.psc with
      panels := v.psc.panels.modify n (fun q => { q with buttons := q.buttons.set b (next b) }) } }
    let pressed (v : State) (b : Fin 8) : State :=
      let w := (moved v b).requestFocus b .panel false
      { w with clp := w.clp.queueNotice (.panelPress n b
        (if v.fcu.focus = b then .ignored else if v.fcu.lock = .hard then .refusedLocked else .done)) }
    let taken := [0, 1, 2, 3, 4, 5, 6, 7].foldl
      (fun v b => if p.buttons[b] = .pressSeen ∧ low.getLsbD b.val = false then pressed v b else moved v b) (s.at t)
    exec (.panelReadCompletes t true low high) s =
      .next { taken with psc := Psc.startNext taken.pattern { taken.psc with bus := none } } ∧
    ((∀ b : Fin 8, ¬ (p.buttons[b] = .pressSeen ∧ down b)) →
      exec (.panelReadCompletes t true low high) s = .next { s.at t with psc := after read }) ∧
    (∀ b : Fin 8, p.buttons[b] = .pressSeen → down b → (∀ o : Fin 8, o ≠ b → ¬ (p.buttons[o] = .pressSeen ∧ down o)) →
      (s.fcu.focus = b → exec (.panelReadCompletes t true low high) s = .next { s.at t with
        psc := after read, clp := s.clp.queueNotice (.panelPress n b .ignored) }) ∧
      (s.fcu.focus ≠ b → s.fcu.lock = .hard → exec (.panelReadCompletes t true low high) s = .next { s.at t with
        psc := after read, clp := s.clp.queueNotice (.panelPress n b .refusedLocked) }) ∧
      (s.fcu.focus ≠ b → s.fcu.lock ≠ .hard → s.ptu.dwell ≠ 0 →
        ∃ r, exec (.panelReadCompletes t true low high) s = .next r ∧ r.fcu.focus = b ∧ r.fcu.lastCause = .panel ∧
          (∃ told : Clp, s.clp.outbound <+: told.outbound ∧ r.clp = told.queueNotice (.panelPress n b .done)) ∧
          r.fcu.lock = s.fcu.lock ∧ r.diu = s.diu ∧ r.hks = s.hks ∧ r.rtf.rules = s.rtf.rules ∧ r.clp.inbound = s.clp.inbound ∧
          ∀ d : Comp, d ≠ s.fcu.focus → d ≠ b → r.comp d = s.comp d)) ∧
    exec (.panelReadCompletes t false low high) s = .next { s.at t with
      psc := after { p with present := false, readDue := false, writeDue := false, buttons := .replicate 8 .held }
      clp := s.clp.queueNotice (.panelLost n p.address false) }) ∧
  (∀ (t : Time) (s : State) (n : Nat) (ones carried : Byte) (changed : Bool) (p : Panel),
    s.psc.bus = some (.write n ones carried changed) →
    s.psc.panels[n]? = some p → s.psc.scanner = .idle →
    let after (p' : Panel) : Psc :=
      Psc.startNext (s.at t).pattern { s.psc with panels := s.psc.panels.set n p', bus := none }
    exec (.panelWriteCompletes t true) s = .next { s.at t with psc := after { p with
      lastPattern := some carried, writeDue := p.present && (changed || decide ((s.at t).pattern ≠ carried)) } } ∧
    exec (.panelWriteCompletes t false) s = .next { s.at t with
      psc := after { p with present := false, readDue := false, writeDue := false, buttons := .replicate 8 .held }
      clp := s.clp.queueNotice (.panelLost n p.address true) }) ∧
  ∀ (t : Time) (s : State) (ack : Bool) (low high : Byte),
    let ended : State := { s.at t with psc := Psc.startNext (s.at t).pattern { s.psc with bus := none } }
    (∀ n a, s.psc.bus = some (.read n) → s.psc.scanner = .scanning a →
      exec (.panelReadCompletes t ack low high) s = .next ended) ∧
    (∀ n ones carried changed a, s.psc.bus = some (.write n ones carried changed) → s.psc.scanner = .scanning a →
      exec (.panelWriteCompletes t ack) s = .next ended) ∧
    ((∀ n, s.psc.bus ≠ some (.read n)) → exec (.panelReadCompletes t ack low high) s = .next (s.at t)) ∧
    ((∀ n ones carried changed, s.psc.bus ≠ some (.write n ones carried changed)) →
      exec (.panelWriteCompletes t ack) s = .next (s.at t))

/-- R13, R169, R170, R172, R155, R181: the desk modifier state is that of the KEYBOARD ports, left or right modifiers alike, bit 0
for Ctrl to bit 3 for GUI. The pattern follows the port states, the focus computer and the time since full reset; deriving
the LEDs makes the writes due of the panels last written another, and marks a write on the bus that carries another (log 11); a
poll tick makes every PRESENT panel's read due; a blink edge derives them while an LED blinks (log 26); READ PANELS and READ DESK
give the records. -/
def Obligations.TicksAndDeskReads : Prop :=
  let derived (pattern : Byte) (psc : Psc) : Psc := { psc with
    panels := psc.panels.map (fun p =>
      if p.present = true ∧ p.lastPattern ≠ some pattern then { p with writeDue := true } else p)
    bus := match psc.bus with
      | some (.write n ones carried changed) => some (.write n ones carried (changed || decide (pattern ≠ carried)))
      | on => on }
  (∀ s : State, s.deriveLeds = { s with psc :=
    if s.psc.bus = none then (derived s.pattern s.psc).startNext s.pattern else derived s.pattern s.psc }) ∧
  (∀ (s : State) (k : Fin 4), s.deskModifiers.getLsbD k.val = true ↔
    ∃ (p : DeskPortId) (mods : Byte) (keys : List Byte), s.diu[p] = .keyboard mods keys ∧
      (mods.getLsbD k.val = true ∨ mods.getLsbD (k.val + 4) = true)) ∧
  (∀ (s : State) (c : Comp),
    s.pattern.getLsbD c.val = match (s.comp c).port with
      | .resuming => decide ((s.clock - s.epoch) % 500 < 250)
      | .suspended => decide ((s.clock - s.epoch) % 2000 < 1000)
      | _ => decide (s.fcu.focus = c)) ∧
  (∀ (t : Time) (s : State),
    let u := s.at t
    let elapsed := max s.clock t - s.epoch
    let free (psc : Psc) : State := { u with psc := if s.psc.bus = none then psc.startNext u.pattern else psc }
    let due : Psc := { s.psc with panels := s.psc.panels.map (fun p => if p.present then { p with readDue := true } else p) }
    let changed : Psc := derived u.pattern s.psc
    let blinks := ∃ c : Comp, (s.comp c).port = .resuming ∨ (s.comp c).port = .suspended
    (elapsed % 10 = 0 → s.psc.scanner = .idle → exec (.pollTick t) s = .next (free due)) ∧
    (elapsed % 10 ≠ 0 ∨ s.psc.scanner ≠ .idle → exec (.pollTick t) s = .next u) ∧
    (elapsed % 250 = 0 → blinks → exec (.blinkEdge t) s = .next (free changed)) ∧
    (elapsed % 250 ≠ 0 ∨ ¬ blinks → exec (.blinkEdge t) s = .next u)) ∧
  ∀ (t : Time) (s : State) (tag : Byte) (rest : List Request),
    (s.Asks 0x1D tag [] rest →
      let led (c : Comp) : Byte := match (s.comp c).port with
        | .resuming => 3
        | .suspended => 2
        | _ => if s.fcu.focus = c then 1 else 0
      let scanner : Byte := match s.psc.scanner with
        | .idle => 0
        | .scanning _ => 1
      exec (.readPanels t) s = .next ((s.at t).answered 0x1D tag rest (
        [0, scanner, byte s.psc.panels.length] ++
        s.psc.panels.flatMap (fun p =>
          [0x38 + byte p.address.val, if p.present then 0 else 1, p.heldButtons, p.lastPattern.getD 0]) ++
        [led 0, led 1, led 2, led 3, led 4, led 5, led 6, led 7]))) ∧
    (s.Asks 0x1C tag [] rest →
      let port (p : DeskPortId) : List Byte := match s.diu[p] with
        | .empty => [0, 0]
        | .enumerating _ => [1, 0]
        | .keyboard _ _ => [2, 0]
        | .pointer _ => [3, 0]
        | .unsupported .notBoot => [4, 1]
        | .unsupported .hub => [4, 2]
        | .unsupported .noResponse => [4, 3]
      let desk : Byte := match s.wpc.desk with
        | .awake => 0
        | .sleepRequested => 1
        | .asleep => 2
      exec (.readDesk t) s = .next ((s.at t).answered 0x1C tag rest (
        0 :: port 0 ++ port 1 ++ port 2 ++ port 3 ++
        [s.deskModifiers.setWidth 8, desk, s.wpc.awaited, s.notAsleep s.wpc.awaited])))

/-! ## The control link -/

/-- R174, R176, R180: the transactions. A select forms the link status; a PUT takes a place and a reservation where both are free
and carries in a request of three bytes or more; a TAKE fixes the oldest frame and removes it when all of it has been clocked;
with any other opening byte the part clocks out 0x00 on every later byte. An event out of its turn changes nothing (log 3), and a
select ends a transaction that has no deselect row (log 25). `spiOut` is log 14's field. -/
def Obligations.SpiTransactionsMoveFrames : Prop :=
  ∀ (t : Time) (s : State),
    let clp := s.clp
    let wrote (c : Clp) : State := { s.at t with clp := c }
    let acceptable := clp.inbound.length < 4 ∧ clp.outbound.length + clp.inbound.length < 32
    ((clp.spi = .idle ∨ clp.spi = .ignoring ∨ clp.spi = .putting false ∨ ∃ st, clp.spi = .selected st) →
      ∃ status : Byte, exec (.spiSelect t) s = .next (wrote { clp with spi := .selected status, spiOut := [] }) ∧
        (status.getLsbD 0 = true ↔ acceptable) ∧ (status.getLsbD 1 = true ↔ clp.outbound ≠ []) ∧ status < 4) ∧
    ((clp.spi = .putting true ∨ ∃ f q, clp.spi = .taking f q) → exec (.spiSelect t) s = .next (s.at t)) ∧
    (∀ status, clp.spi = .selected status →
      (acceptable → exec (.put t) s = .next (wrote { clp with spi := .putting true, spiOut := [status] })) ∧
      (¬ acceptable → exec (.put t) s = .next (wrote { clp with spi := .putting false, spiOut := [status] })) ∧
      exec (.take t) s = .next (wrote { clp with spi := .taking clp.outbound.head? true, spiOut := [status] }) ∧
      (∀ opening later, exec (.otherOpeningByte t (opening :: later)) s =
        .next (wrote { clp with spi := .ignoring, spiOut := status :: List.replicate later.length 0 })) ∧
      exec (.otherOpeningByte t []) s = .next (s.at t)) ∧
    ((∀ status, clp.spi ≠ .selected status) →
      exec (.put t) s = .next (s.at t) ∧ exec (.take t) s = .next (s.at t) ∧
      ∀ bytes, exec (.otherOpeningByte t bytes) s = .next (s.at t)) ∧
    (∀ bytes : List Byte,
      let zeros := clp.spiOut ++ List.replicate bytes.length 0
      (∀ kind tag len more, bytes = kind :: tag :: len :: more → clp.spi = .putting true →
        exec (.putDeselect t bytes) s = .next (wrote { clp with
          spi := .idle, spiOut := zeros, inbound := clp.inbound ++
            [{ kind := kind, tag := tag, lengthByte := len, body := more.take 60, count := more.length }] })) ∧
      (bytes.length < 3 → clp.spi = .putting true →
        exec (.putDeselect t bytes) s = .next (wrote { clp with spi := .idle, spiOut := zeros })) ∧
      (clp.spi = .putting false → exec (.putDeselect t bytes) s = .next (wrote { clp with spi := .idle, spiOut := zeros })) ∧
      ((∀ a, clp.spi ≠ .putting a) → exec (.putDeselect t bytes) s = .next (s.at t))) ∧
    ∀ n : Nat,
      (∀ frame queued, clp.spi = .taking (some frame) queued →
        let sent := frame.kind :: frame.tag :: byte frame.payload.length :: frame.payload
        exec (.takeDeselect t n) s = .next (wrote { clp with
          spi := .idle, spiOut := clp.spiOut ++ sent.take n ++ List.replicate (n - sent.length) 0
          outbound := if queued = true ∧ sent.length ≤ n then clp.outbound.drop 1 else clp.outbound })) ∧
      (∀ queued, clp.spi = .taking none queued → exec (.takeDeselect t n) s = .next (wrote { clp with
        spi := .idle, spiOut := clp.spiOut ++ List.replicate n 0 })) ∧
      ((∀ frame queued, clp.spi ≠ .taking frame queued) → exec (.takeDeselect t n) s = .next (s.at t))

/-- R179, R184, the payloads of R39, R68, R110, R121, R133, R136, R154, R160, R163, R172, R181, R183, and the codes in them and in
the replies (R18, R38, R61, R131 among them): a notice takes a slot that is neither reserved nor holding a frame, with the LOST flag
byte first; with no such slot it is dropped and the next one says so. -/
def Obligations.NoticesAreQueuedOrLost : Prop :=
  (∀ (c : Clp) (n : Notice),
    (c.outbound.length + c.places < 32 → c.queueNotice n = { c with
      outbound := c.outbound ++ [{ kind := n.kind, tag := 0, payload := (if c.lost then 1 else 0) :: n.body }], lost := false }) ∧
    (32 ≤ c.outbound.length + c.places → c.queueNotice n = { c with lost := true })) ∧
  (∀ kind tag payload, (Frame.mk kind tag payload).bytes = kind :: tag :: byte payload.length :: payload) ∧
  [PortState.detached, .powered, .default, .configured, .suspended, .resuming].map PortState.code = [0, 1, 2, 3, 4, 5] ∧
  [WakeEnd.resumed, .timeout, .busReset, .detached, .noPermission, .systemLost].map WakeEnd.code = [0, 1, 2, 3, 4, 5] ∧
  [WakeCause.input, .focus, .hotkey, .host, .desk].map WakeCause.code = [0, 1, 2, 3, 4] ∧
  [DeskState.awake, .sleepRequested, .asleep].map DeskState.code = [0, 1, 2] ∧
  [DeskCause.request, .allAsleep, .timeout, .input, .hostWake].map DeskCause.code = [0, 1, 2, 3, 4] ∧
  (∀ d, Power.active.code = 0 ∧ (Power.darkHold d).code = 1) ∧ (∀ f, (Power.standby f).code = 2) ∧
  [Lock.none, .soft, .hard].map Lock.code = [0, 1, 2] ∧ [Showing.primary, .alternate].map Showing.code = [0, 1] ∧
  [FocusOutcome.done, .refusedLocked, .ignored].map FocusOutcome.code = [0, 1, 2] ∧
  [FocusCause.glide, .hotkey, .panel, .preset, .host].map FocusCause.code = [0, 1, 2, 3, 4] ∧
  [WalkFailure.freeRecord, .tooLong, .outsideScreen, .ownedElsewhere].map WalkFailure.code = [1, 2, 3, 4] ∧
  [Command.select, .selectNext, .selectPrev, .preset, .presetNext, .flip, .lock, .unlock, .lockToggle, .wake, .wakeFocus,
    .deskSleep, .hostCode].map Command.code = [1, 2, 3, 4, 5, 6, 7, 8, 9, 10, 11, 12, 13] ∧
  [Command.select, .preset, .flip, .wake, .hostCode].map Command.arguments = [8, 16, 256, 8, 256] ∧
  [Command.selectNext, .selectPrev, .presetNext, .lock, .unlock, .lockToggle, .wakeFocus, .deskSleep].map Command.arguments =
    [1, 1, 1, 1, 1, 1, 1, 1] ∧
  [TriggerKind.chordMake, .chordBreak, .sequence].map TriggerKind.code = [0, 1, 2] ∧
  [Cond.any, .required, .absent].map Cond.code = [0, 1, 2] ∧
  Notice.resetDone.kind = 0x40 ∧ Notice.resetDone.body = [] ∧
  (∀ p screens f, (Notice.presetResult p screens f).kind = 0x47 ∧
    (Notice.presetResult p screens f).body = byte p.val :: screens ++ [f]) ∧
  (∀ e o k a, (Notice.hotkey e o k a).kind = 0x49 ∧ (Notice.hotkey e o k a).body = [e, o, k, a]) ∧
  (∀ f p cause lock park, (Notice.focus f p cause lock park).kind = 0x41 ∧
    (Notice.focus f p cause lock park).body = [byte f.val, byte p.val, cause, lock.code, if park then 1 else 0]) ∧
  (∀ c new old permission, (Notice.portState c new old permission).kind = 0x42 ∧
    (Notice.portState c new old permission).body = [byte c.val, new.code, old.code, if permission then 1 else 0]) ∧
  (∀ c r cause e, (Notice.wakeResult c r cause e).kind = 0x43 ∧
    (Notice.wakeResult c r cause e).body = [byte c.val, r.code, cause.code, e]) ∧
  (∀ new old cause a n, (Notice.deskState new old cause a n).kind = 0x44 ∧
    (Notice.deskState new old cause a n).body = [new.code, old.code, cause.code, a, n]) ∧
  (∀ scr new old, (Notice.screenPower scr new old).kind = 0x45 ∧
    (Notice.screenPower scr new old).body = [byte scr.val, new.code, old.code]) ∧
  (∀ scr (r : TileId) (atOnce : Bool), (Notice.chainApplied scr (some r) atOnce).kind = 0x46 ∧
    (Notice.chainApplied scr (some r) atOnce).body = [byte scr.val, byte r.val, 0, if atOnce then 1 else 0] ∧
    (Notice.chainApplied scr none atOnce).body = [byte scr.val, 0xFF, 0xFF, if atOnce then 1 else 0]) ∧
  (∀ h w v, (Notice.sourceChange h (some (w, v))).kind = 0x48 ∧
    (Notice.sourceChange h (some (w, v))).body = [byte h.val, 1, byte w, byte (w / 256), byte v, byte (v / 256)] ∧
    (Notice.sourceChange h none).body = [byte h.val, 0, 0, 0, 0, 0]) ∧
  (∀ n b o, (Notice.panelPress n b o).kind = 0x4A ∧ (Notice.panelPress n b o).body = [0, byte n, byte b.val, o.code]) ∧
  (∀ n (a : Fin 4) (w : Bool), (Notice.panelLost n a w).kind = 0x4A ∧
    (Notice.panelLost n a w).body = [1, byte n, 0x38 + byte a.val, if w then 1 else 0]) ∧
  (∀ n a, (Notice.scanDone n a).kind = 0x4A ∧ (Notice.scanDone n a).body = [2, byte n, a, 0]) ∧
  (∀ p st, (Notice.deskPort p st).kind = 0x4B ∧ (Notice.deskPort p st).body = byte p.val :: (match st with
    | .empty => [0, 0]
    | .enumerating _ => [1, 0]
    | .keyboard _ _ => [2, 0]
    | .pointer _ => [3, 0]
    | .unsupported .notBoot => [4, 1]
    | .unsupported .hub => [4, 2]
    | .unsupported .noResponse => [4, 3])) ∧
  (∀ scr r sh, (Notice.flipApplied scr r sh).kind = 0x4C ∧ (Notice.flipApplied scr r sh).body = [byte scr.val, byte r.val, sh.code])

/-- R177, R178: a request of a kind that names none is answered BAD KIND; a frame of the wrong length is answered BAD LENGTH; a
request command acts only on an oldest request of its kind (log 4); a request answered with another status than OK has changed
nothing but the link, PLACE SCREEN's pointer (R97) excepted; and a READ request never changes anything else. -/
def Obligations.RefusedRequestsChangeNothing : Prop :=
  (∀ (t : Time) (s : State) (r : Request) (rest : List Request), s.clp.inbound = r :: rest →
    let reply (kind status : Byte) : State := { s.at t with clp := { s.clp with
      inbound := rest, outbound := s.clp.outbound ++ [{ kind := kind, tag := r.tag, payload := [status] }] } }
    ((r.kind = 0 ∨ 0x1E < r.kind) →
      exec (.unknownRequest t) s = .next (reply (if r.kind < 0x80 then r.kind + 0x80 else r.kind) 1)) ∧
    (1 ≤ r.kind → r.kind ≤ 0x1E → exec (.unknownRequest t) s = .next (s.at t))) ∧
  (∀ (c : Instr) (k : Byte) (s : State) (r : Request) (rest : List Request), requestKind c = some k →
    s.clp.inbound = r :: rest → r.kind = k → (60 < r.lengthByte.toNat ∨ r.count ≠ r.lengthByte.toNat) →
    ∃ now, s.clock ≤ now ∧ exec c s = .next ({ s with clock := now }.answered k r.tag rest [2])) ∧
  (∀ (c : Instr) (k : Byte) (s : State), requestKind c = some k → (∀ r rest, s.clp.inbound = r :: rest → r.kind ≠ k) →
    ∃ now, s.clock ≤ now ∧ exec c s = .next { s with clock := now }) ∧
  ∀ (c : Instr) (k : Byte) (s t : State) (r : Request) (rest : List Request) (q : List Frame) (f : Frame),
    requestKind c = some k → s.clp.inbound = r :: rest → r.kind = k → exec c s = .next t → t.clp.outbound = q ++ [f] →
    ((f.payload.head? ≠ some 0 ∧ k ≠ 0x03 ∧ k ≠ 0x16) ∨ 0x17 ≤ k) →
    t = { s with clock := t.clock, clp := t.clp } ∧ t.clp.inbound = rest

/-- R182, and the RESTART actions of R40, R54, R79, R99, R119, R140, R149, R166, R173: a RESTART with an empty payload leaves its
reply as the first frame, with the counts of what it discarded; each block keeps what its chapter keeps and is otherwise at its
runtime values. Each computer that held a key is handed the empty snapshot, and each that held a button a report with none; the
panels keep their records, and the writes that the new pattern makes due follow. With another payload it is refused. The second
clause gives the whole state for every dwell setting: `base` is what the blocks are set to, the pending target, the hit fields, the
notice-lost flag and a TAKE in progress among them; then, by log 9's order, the screens leave forced standby where the desk was
ASLEEP, every screen is re-evaluated, and the LEDs are derived (O53, O56). The third clause, for a dwell setting other than 0, says
of each block what that comes to; it leaves the pending target, the hit fields, the power states, the notice-lost flag and the TAKE
to the second, since a re-evaluated screen that enters STANDBY may apply a chain and re-evaluate the hit target (log 6 has what a
dwell setting of 0 then does). -/
def Obligations.RestartReturnsTheRuntimeValues : Prop :=
  ∀ (t : Time) (s : State) (tag : Byte) (payload : List Byte) (rest : List Request), s.Asks 0x16 tag payload rest →
    (payload ≠ [] → exec (.restart t) s = .next ((s.at t).answered 0x16 tag rest [2])) ∧
    (payload = [] → ∀ scr : ScreenId, s.lco.screens[scr].placed = true →
      (∀ o : ScreenId, o < scr → s.lco.screens[o].placed = false) →
      ∃ cps stale,
        (∀ c : Comp,
          let unkeyed : Computer := if (s.comp c).keySet = [] then s.comp c
            else ({ s.comp c with keySet := [] }).takeSnapshot { mods := 0, slots := #v[0, 0, 0, 0, 0, 0] }
          cps[c] = match (s.comp c).lastPointer with
            | some p => if p.buttons = 0 then unkeyed else unkeyed.takePointer { p with buttons := 0 } 0
            | none => unkeyed) ∧
        (∀ p : DeskPortId, stale[p] = s.ptu.stale[p] ||| s.diu[p].held) ∧
        let rect := s.lco.screens[scr].rect
        let centred : Ptu := { s.ptu with
          px := rect.x + rect.w / 2, py := rect.y + rect.h / 2, fx := 0, fy := 0, stale := stale }
        let hit := { s with ptu := centred }.hitTest
        let base : State := { s.at t with
          hks := { s.hks with seq := .idle, hold := [], swallowed := [] }
          rtf := { s.rtf with held := [] }
          cps := cps
          fcu := { focus := 0, lock := .none, pending := none, guard := none, park := none, lastCause := .host }
          ptu := { centred with hitTile := hit.1, hit := hit.2 }
          wpc := { s.wpc with desk := .awake, awaited := 0, deskDeadline := none }
          clp := { s.clp with
            inbound := [], lost := false
            outbound := [{ kind := 0x96, tag := tag, payload := [0, byte rest.length, byte s.clp.outbound.length] }]
            spi := match s.clp.spi with
              | .taking frame _ => .taking frame false
              | spi => spi } }
        let left := if s.wpc.desk = .asleep then allScreens.foldl State.leaveForced base else base
        exec (.restart t) s =
          .next (allScreens.foldl (State.reevaluateScreen State.reevaluate) left).deriveLeds) ∧
    (payload = [] → s.ptu.dwell ≠ 0 → ∃ r, exec (.restart t) s = .next r ∧
      r.diu = s.diu ∧
      r.hks = { s.hks with seq := .idle, hold := [], swallowed := [] } ∧
      r.rtf = { s.rtf with held := [] } ∧ (∀ c : Comp, (r.comp c).keySet = []) ∧
      r.fcu = { focus := 0, lock := .none, pending := r.fcu.pending, guard := none, park := none, lastCause := .host } ∧
      (∀ scr : ScreenId, s.lco.screens[scr].placed = true → (∀ o : ScreenId, o < scr → s.lco.screens[o].placed = false) →
        r.ptu.px = s.lco.screens[scr].rect.x + s.lco.screens[scr].rect.w / 2 ∧
        r.ptu.py = s.lco.screens[scr].rect.y + s.lco.screens[scr].rect.h / 2) ∧
      r.ptu.fx = 0 ∧ r.ptu.fy = 0 ∧
      (∀ p : DeskPortId, r.ptu.stale[p] = s.ptu.stale[p] ||| s.diu[p].held) ∧
      r.ptu = { s.ptu with px := r.ptu.px, py := r.ptu.py, fx := 0, fy := 0, hitTile := r.ptu.hitTile, hit := r.ptu.hit,
                           stale := r.ptu.stale } ∧
      (∀ c : Comp, r.comp c = { s.comp c with
        keySet := [], queue := (r.comp c).queue, owedKeyboard := (r.comp c).owedKeyboard, owedPointer := (r.comp c).owedPointer,
        merge := (r.comp c).merge, lastSnapshot := (r.comp c).lastSnapshot, lastPointer := (r.comp c).lastPointer }) ∧
      (∀ c : Comp,
        let unkeyed : Computer := if (s.comp c).keySet = [] then s.comp c
          else ({ s.comp c with keySet := [] }).takeSnapshot { mods := 0, slots := #v[0, 0, 0, 0, 0, 0] }
        r.comp c = match (s.comp c).lastPointer with
          | some p => if p.buttons = 0 then unkeyed else unkeyed.takePointer { p with buttons := 0 } 0
          | none => unkeyed) ∧
      s.lco.SameLook r.lco ∧
      r.wpc = { s.wpc with desk := .awake, awaited := 0, deskDeadline := none, power := r.wpc.power } ∧
      r.psc.scanner = s.psc.scanner ∧ r.psc.panels.map Panel.address = s.psc.panels.map Panel.address ∧
      (let marked : Psc := { s.psc with
          panels := s.psc.panels.map (fun p =>
            if p.present = true ∧ p.lastPattern ≠ some r.pattern then { p with writeDue := true } else p)
          bus := match s.psc.bus with
            | some (.write n ones carried changed) => some (.write n ones carried (changed || decide (r.pattern ≠ carried)))
            | on => on }
       r.psc = if s.psc.bus = none then marked.startNext r.pattern else marked) ∧
      r.clp.inbound = [] ∧ ∃ q, r.clp.outbound =
        { kind := 0x96, tag := tag, payload := [0, byte rest.length, byte s.clp.outbound.length] } :: q)
end

