-- ==== Sys2Proof/Laws/State.lean ====
section
/-! SUPPORT. State.lean: one lemma per field per update of State. -/

namespace Sys2Proof.Machine

variable (s : State)

/-! ## setComp -/

@[simp] theorem State.setComp_clock (c : Comp) (r : Computer) : (s.setComp c r).clock = s.clock := rfl
@[simp] theorem State.setComp_epoch (c : Comp) (r : Computer) : (s.setComp c r).epoch = s.epoch := rfl
@[simp] theorem State.setComp_diu (c : Comp) (r : Computer) : (s.setComp c r).diu = s.diu := rfl
@[simp] theorem State.setComp_hks (c : Comp) (r : Computer) : (s.setComp c r).hks = s.hks := rfl
@[simp] theorem State.setComp_rtf (c : Comp) (r : Computer) : (s.setComp c r).rtf = s.rtf := rfl
@[simp] theorem State.setComp_fcu (c : Comp) (r : Computer) : (s.setComp c r).fcu = s.fcu := rfl
@[simp] theorem State.setComp_ptu (c : Comp) (r : Computer) : (s.setComp c r).ptu = s.ptu := rfl
@[simp] theorem State.setComp_cps (c : Comp) (r : Computer) : (s.setComp c r).cps = s.cps.set c r := rfl
@[simp] theorem State.setComp_lco (c : Comp) (r : Computer) : (s.setComp c r).lco = s.lco := rfl
@[simp] theorem State.setComp_wpc (c : Comp) (r : Computer) : (s.setComp c r).wpc = s.wpc := rfl
@[simp] theorem State.setComp_psc (c : Comp) (r : Computer) : (s.setComp c r).psc = s.psc := rfl
@[simp] theorem State.setComp_clp (c : Comp) (r : Computer) : (s.setComp c r).clp = s.clp := rfl
@[simp] theorem State.setComp_pending (c : Comp) (r : Computer) : (s.setComp c r).pending = s.pending := rfl

/-! ## setFcu -/

@[simp] theorem State.setFcu_clock (f : Fcu) : (s.setFcu f).clock = s.clock := rfl
@[simp] theorem State.setFcu_epoch (f : Fcu) : (s.setFcu f).epoch = s.epoch := rfl
@[simp] theorem State.setFcu_diu (f : Fcu) : (s.setFcu f).diu = s.diu := rfl
@[simp] theorem State.setFcu_hks (f : Fcu) : (s.setFcu f).hks = s.hks := rfl
@[simp] theorem State.setFcu_rtf (f : Fcu) : (s.setFcu f).rtf = s.rtf := rfl
@[simp] theorem State.setFcu_fcu (f : Fcu) : (s.setFcu f).fcu = f := rfl
@[simp] theorem State.setFcu_ptu (f : Fcu) : (s.setFcu f).ptu = s.ptu := rfl
@[simp] theorem State.setFcu_cps (f : Fcu) : (s.setFcu f).cps = s.cps := rfl
@[simp] theorem State.setFcu_lco (f : Fcu) : (s.setFcu f).lco = s.lco := rfl
@[simp] theorem State.setFcu_wpc (f : Fcu) : (s.setFcu f).wpc = s.wpc := rfl
@[simp] theorem State.setFcu_psc (f : Fcu) : (s.setFcu f).psc = s.psc := rfl
@[simp] theorem State.setFcu_clp (f : Fcu) : (s.setFcu f).clp = s.clp := rfl
@[simp] theorem State.setFcu_pending (f : Fcu) : (s.setFcu f).pending = s.pending := rfl

/-! ## setPtu -/

@[simp] theorem State.setPtu_clock (p : Ptu) : (s.setPtu p).clock = s.clock := rfl
@[simp] theorem State.setPtu_epoch (p : Ptu) : (s.setPtu p).epoch = s.epoch := rfl
@[simp] theorem State.setPtu_diu (p : Ptu) : (s.setPtu p).diu = s.diu := rfl
@[simp] theorem State.setPtu_hks (p : Ptu) : (s.setPtu p).hks = s.hks := rfl
@[simp] theorem State.setPtu_rtf (p : Ptu) : (s.setPtu p).rtf = s.rtf := rfl
@[simp] theorem State.setPtu_fcu (p : Ptu) : (s.setPtu p).fcu = s.fcu := rfl
@[simp] theorem State.setPtu_ptu (p : Ptu) : (s.setPtu p).ptu = p := rfl
@[simp] theorem State.setPtu_cps (p : Ptu) : (s.setPtu p).cps = s.cps := rfl
@[simp] theorem State.setPtu_lco (p : Ptu) : (s.setPtu p).lco = s.lco := rfl
@[simp] theorem State.setPtu_wpc (p : Ptu) : (s.setPtu p).wpc = s.wpc := rfl
@[simp] theorem State.setPtu_psc (p : Ptu) : (s.setPtu p).psc = s.psc := rfl
@[simp] theorem State.setPtu_clp (p : Ptu) : (s.setPtu p).clp = s.clp := rfl
@[simp] theorem State.setPtu_pending (p : Ptu) : (s.setPtu p).pending = s.pending := rfl

/-! ## setLco -/

@[simp] theorem State.setLco_clock (l : Lco) : (s.setLco l).clock = s.clock := rfl
@[simp] theorem State.setLco_epoch (l : Lco) : (s.setLco l).epoch = s.epoch := rfl
@[simp] theorem State.setLco_diu (l : Lco) : (s.setLco l).diu = s.diu := rfl
@[simp] theorem State.setLco_hks (l : Lco) : (s.setLco l).hks = s.hks := rfl
@[simp] theorem State.setLco_rtf (l : Lco) : (s.setLco l).rtf = s.rtf := rfl
@[simp] theorem State.setLco_fcu (l : Lco) : (s.setLco l).fcu = s.fcu := rfl
@[simp] theorem State.setLco_ptu (l : Lco) : (s.setLco l).ptu = s.ptu := rfl
@[simp] theorem State.setLco_cps (l : Lco) : (s.setLco l).cps = s.cps := rfl
@[simp] theorem State.setLco_lco (l : Lco) : (s.setLco l).lco = l := rfl
@[simp] theorem State.setLco_wpc (l : Lco) : (s.setLco l).wpc = s.wpc := rfl
@[simp] theorem State.setLco_psc (l : Lco) : (s.setLco l).psc = s.psc := rfl
@[simp] theorem State.setLco_clp (l : Lco) : (s.setLco l).clp = s.clp := rfl
@[simp] theorem State.setLco_pending (l : Lco) : (s.setLco l).pending = s.pending := rfl

/-! ## setWpc -/

@[simp] theorem State.setWpc_clock (w : Wpc) : (s.setWpc w).clock = s.clock := rfl
@[simp] theorem State.setWpc_epoch (w : Wpc) : (s.setWpc w).epoch = s.epoch := rfl
@[simp] theorem State.setWpc_diu (w : Wpc) : (s.setWpc w).diu = s.diu := rfl
@[simp] theorem State.setWpc_hks (w : Wpc) : (s.setWpc w).hks = s.hks := rfl
@[simp] theorem State.setWpc_rtf (w : Wpc) : (s.setWpc w).rtf = s.rtf := rfl
@[simp] theorem State.setWpc_fcu (w : Wpc) : (s.setWpc w).fcu = s.fcu := rfl
@[simp] theorem State.setWpc_ptu (w : Wpc) : (s.setWpc w).ptu = s.ptu := rfl
@[simp] theorem State.setWpc_cps (w : Wpc) : (s.setWpc w).cps = s.cps := rfl
@[simp] theorem State.setWpc_lco (w : Wpc) : (s.setWpc w).lco = s.lco := rfl
@[simp] theorem State.setWpc_wpc (w : Wpc) : (s.setWpc w).wpc = w := rfl
@[simp] theorem State.setWpc_psc (w : Wpc) : (s.setWpc w).psc = s.psc := rfl
@[simp] theorem State.setWpc_clp (w : Wpc) : (s.setWpc w).clp = s.clp := rfl
@[simp] theorem State.setWpc_pending (w : Wpc) : (s.setWpc w).pending = s.pending := rfl

/-! ## setRtf -/

@[simp] theorem State.setRtf_clock (r : Rtf) : (s.setRtf r).clock = s.clock := rfl
@[simp] theorem State.setRtf_epoch (r : Rtf) : (s.setRtf r).epoch = s.epoch := rfl
@[simp] theorem State.setRtf_diu (r : Rtf) : (s.setRtf r).diu = s.diu := rfl
@[simp] theorem State.setRtf_hks (r : Rtf) : (s.setRtf r).hks = s.hks := rfl
@[simp] theorem State.setRtf_rtf (r : Rtf) : (s.setRtf r).rtf = r := rfl
@[simp] theorem State.setRtf_fcu (r : Rtf) : (s.setRtf r).fcu = s.fcu := rfl
@[simp] theorem State.setRtf_ptu (r : Rtf) : (s.setRtf r).ptu = s.ptu := rfl
@[simp] theorem State.setRtf_cps (r : Rtf) : (s.setRtf r).cps = s.cps := rfl
@[simp] theorem State.setRtf_lco (r : Rtf) : (s.setRtf r).lco = s.lco := rfl
@[simp] theorem State.setRtf_wpc (r : Rtf) : (s.setRtf r).wpc = s.wpc := rfl
@[simp] theorem State.setRtf_psc (r : Rtf) : (s.setRtf r).psc = s.psc := rfl
@[simp] theorem State.setRtf_clp (r : Rtf) : (s.setRtf r).clp = s.clp := rfl
@[simp] theorem State.setRtf_pending (r : Rtf) : (s.setRtf r).pending = s.pending := rfl

/-! ## setHks -/

@[simp] theorem State.setHks_clock (h : Hks) : (s.setHks h).clock = s.clock := rfl
@[simp] theorem State.setHks_epoch (h : Hks) : (s.setHks h).epoch = s.epoch := rfl
@[simp] theorem State.setHks_diu (h : Hks) : (s.setHks h).diu = s.diu := rfl
@[simp] theorem State.setHks_hks (h : Hks) : (s.setHks h).hks = h := rfl
@[simp] theorem State.setHks_rtf (h : Hks) : (s.setHks h).rtf = s.rtf := rfl
@[simp] theorem State.setHks_fcu (h : Hks) : (s.setHks h).fcu = s.fcu := rfl
@[simp] theorem State.setHks_ptu (h : Hks) : (s.setHks h).ptu = s.ptu := rfl
@[simp] theorem State.setHks_cps (h : Hks) : (s.setHks h).cps = s.cps := rfl
@[simp] theorem State.setHks_lco (h : Hks) : (s.setHks h).lco = s.lco := rfl
@[simp] theorem State.setHks_wpc (h : Hks) : (s.setHks h).wpc = s.wpc := rfl
@[simp] theorem State.setHks_psc (h : Hks) : (s.setHks h).psc = s.psc := rfl
@[simp] theorem State.setHks_clp (h : Hks) : (s.setHks h).clp = s.clp := rfl
@[simp] theorem State.setHks_pending (h : Hks) : (s.setHks h).pending = s.pending := rfl

/-! ## setPsc -/

@[simp] theorem State.setPsc_clock (p : Psc) : (s.setPsc p).clock = s.clock := rfl
@[simp] theorem State.setPsc_epoch (p : Psc) : (s.setPsc p).epoch = s.epoch := rfl
@[simp] theorem State.setPsc_diu (p : Psc) : (s.setPsc p).diu = s.diu := rfl
@[simp] theorem State.setPsc_hks (p : Psc) : (s.setPsc p).hks = s.hks := rfl
@[simp] theorem State.setPsc_rtf (p : Psc) : (s.setPsc p).rtf = s.rtf := rfl
@[simp] theorem State.setPsc_fcu (p : Psc) : (s.setPsc p).fcu = s.fcu := rfl
@[simp] theorem State.setPsc_ptu (p : Psc) : (s.setPsc p).ptu = s.ptu := rfl
@[simp] theorem State.setPsc_cps (p : Psc) : (s.setPsc p).cps = s.cps := rfl
@[simp] theorem State.setPsc_lco (p : Psc) : (s.setPsc p).lco = s.lco := rfl
@[simp] theorem State.setPsc_wpc (p : Psc) : (s.setPsc p).wpc = s.wpc := rfl
@[simp] theorem State.setPsc_psc (p : Psc) : (s.setPsc p).psc = p := rfl
@[simp] theorem State.setPsc_clp (p : Psc) : (s.setPsc p).clp = s.clp := rfl
@[simp] theorem State.setPsc_pending (p : Psc) : (s.setPsc p).pending = s.pending := rfl

/-! ## setClp -/

@[simp] theorem State.setClp_clock (c : Clp) : (s.setClp c).clock = s.clock := rfl
@[simp] theorem State.setClp_epoch (c : Clp) : (s.setClp c).epoch = s.epoch := rfl
@[simp] theorem State.setClp_diu (c : Clp) : (s.setClp c).diu = s.diu := rfl
@[simp] theorem State.setClp_hks (c : Clp) : (s.setClp c).hks = s.hks := rfl
@[simp] theorem State.setClp_rtf (c : Clp) : (s.setClp c).rtf = s.rtf := rfl
@[simp] theorem State.setClp_fcu (c : Clp) : (s.setClp c).fcu = s.fcu := rfl
@[simp] theorem State.setClp_ptu (c : Clp) : (s.setClp c).ptu = s.ptu := rfl
@[simp] theorem State.setClp_cps (c : Clp) : (s.setClp c).cps = s.cps := rfl
@[simp] theorem State.setClp_lco (c : Clp) : (s.setClp c).lco = s.lco := rfl
@[simp] theorem State.setClp_wpc (c : Clp) : (s.setClp c).wpc = s.wpc := rfl
@[simp] theorem State.setClp_psc (c : Clp) : (s.setClp c).psc = s.psc := rfl
@[simp] theorem State.setClp_clp (c : Clp) : (s.setClp c).clp = c := rfl
@[simp] theorem State.setClp_pending (c : Clp) : (s.setClp c).pending = s.pending := rfl

/-! ## setDeskPort -/

@[simp] theorem State.setDeskPort_clock (p : DeskPortId) (d : DeskPort) : (s.setDeskPort p d).clock = s.clock := rfl
@[simp] theorem State.setDeskPort_epoch (p : DeskPortId) (d : DeskPort) : (s.setDeskPort p d).epoch = s.epoch := rfl
@[simp] theorem State.setDeskPort_diu (p : DeskPortId) (d : DeskPort) : (s.setDeskPort p d).diu = s.diu.set p d := rfl
@[simp] theorem State.setDeskPort_hks (p : DeskPortId) (d : DeskPort) : (s.setDeskPort p d).hks = s.hks := rfl
@[simp] theorem State.setDeskPort_rtf (p : DeskPortId) (d : DeskPort) : (s.setDeskPort p d).rtf = s.rtf := rfl
@[simp] theorem State.setDeskPort_fcu (p : DeskPortId) (d : DeskPort) : (s.setDeskPort p d).fcu = s.fcu := rfl
@[simp] theorem State.setDeskPort_ptu (p : DeskPortId) (d : DeskPort) : (s.setDeskPort p d).ptu = s.ptu := rfl
@[simp] theorem State.setDeskPort_cps (p : DeskPortId) (d : DeskPort) : (s.setDeskPort p d).cps = s.cps := rfl
@[simp] theorem State.setDeskPort_lco (p : DeskPortId) (d : DeskPort) : (s.setDeskPort p d).lco = s.lco := rfl
@[simp] theorem State.setDeskPort_wpc (p : DeskPortId) (d : DeskPort) : (s.setDeskPort p d).wpc = s.wpc := rfl
@[simp] theorem State.setDeskPort_psc (p : DeskPortId) (d : DeskPort) : (s.setDeskPort p d).psc = s.psc := rfl
@[simp] theorem State.setDeskPort_clp (p : DeskPortId) (d : DeskPort) : (s.setDeskPort p d).clp = s.clp := rfl
@[simp] theorem State.setDeskPort_pending (p : DeskPortId) (d : DeskPort) : (s.setDeskPort p d).pending = s.pending := rfl

/-! ## notify -/

@[simp] theorem State.notify_clock (n : Notice) : (s.notify n).clock = s.clock := rfl
@[simp] theorem State.notify_epoch (n : Notice) : (s.notify n).epoch = s.epoch := rfl
@[simp] theorem State.notify_diu (n : Notice) : (s.notify n).diu = s.diu := rfl
@[simp] theorem State.notify_hks (n : Notice) : (s.notify n).hks = s.hks := rfl
@[simp] theorem State.notify_rtf (n : Notice) : (s.notify n).rtf = s.rtf := rfl
@[simp] theorem State.notify_fcu (n : Notice) : (s.notify n).fcu = s.fcu := rfl
@[simp] theorem State.notify_ptu (n : Notice) : (s.notify n).ptu = s.ptu := rfl
@[simp] theorem State.notify_cps (n : Notice) : (s.notify n).cps = s.cps := rfl
@[simp] theorem State.notify_lco (n : Notice) : (s.notify n).lco = s.lco := rfl
@[simp] theorem State.notify_wpc (n : Notice) : (s.notify n).wpc = s.wpc := rfl
@[simp] theorem State.notify_psc (n : Notice) : (s.notify n).psc = s.psc := rfl
@[simp] theorem State.notify_clp (n : Notice) : (s.notify n).clp = s.clp.queueNotice n := rfl
@[simp] theorem State.notify_pending (n : Notice) : (s.notify n).pending = s.pending := rfl

/-! ## at -/

@[simp] theorem State.at_clock (t : Time) : (s.at t).clock = max s.clock t := rfl
@[simp] theorem State.at_epoch (t : Time) : (s.at t).epoch = s.epoch := rfl
@[simp] theorem State.at_diu (t : Time) : (s.at t).diu = s.diu := rfl
@[simp] theorem State.at_hks (t : Time) : (s.at t).hks = s.hks := rfl
@[simp] theorem State.at_rtf (t : Time) : (s.at t).rtf = s.rtf := rfl
@[simp] theorem State.at_fcu (t : Time) : (s.at t).fcu = s.fcu := rfl
@[simp] theorem State.at_ptu (t : Time) : (s.at t).ptu = s.ptu := rfl
@[simp] theorem State.at_cps (t : Time) : (s.at t).cps = s.cps := rfl
@[simp] theorem State.at_lco (t : Time) : (s.at t).lco = s.lco := rfl
@[simp] theorem State.at_wpc (t : Time) : (s.at t).wpc = s.wpc := rfl
@[simp] theorem State.at_psc (t : Time) : (s.at t).psc = s.psc := rfl
@[simp] theorem State.at_clp (t : Time) : (s.at t).clp = s.clp := rfl
@[simp] theorem State.at_pending (t : Time) : (s.at t).pending = s.pending := rfl

@[simp] theorem State.setFcu_setFcu (f f' : Fcu) : (s.setFcu f).setFcu f' = s.setFcu f' := rfl
@[simp] theorem State.setFcu_self : s.setFcu s.fcu = s := rfl
@[simp] theorem State.setPtu_setPtu (p p' : Ptu) : (s.setPtu p).setPtu p' = s.setPtu p' := rfl
@[simp] theorem State.setPtu_self : s.setPtu s.ptu = s := rfl
@[simp] theorem State.setLco_setLco (l l' : Lco) : (s.setLco l).setLco l' = s.setLco l' := rfl
@[simp] theorem State.setLco_self : s.setLco s.lco = s := rfl
@[simp] theorem State.setWpc_setWpc (w w' : Wpc) : (s.setWpc w).setWpc w' = s.setWpc w' := rfl
@[simp] theorem State.setWpc_self : s.setWpc s.wpc = s := rfl
@[simp] theorem State.setRtf_setRtf (r r' : Rtf) : (s.setRtf r).setRtf r' = s.setRtf r' := rfl
@[simp] theorem State.setRtf_self : s.setRtf s.rtf = s := rfl
@[simp] theorem State.setHks_setHks (h h' : Hks) : (s.setHks h).setHks h' = s.setHks h' := rfl
@[simp] theorem State.setHks_self : s.setHks s.hks = s := rfl
@[simp] theorem State.setPsc_setPsc (p p' : Psc) : (s.setPsc p).setPsc p' = s.setPsc p' := rfl
@[simp] theorem State.setPsc_self : s.setPsc s.psc = s := rfl
@[simp] theorem State.setClp_setClp (c c' : Clp) : (s.setClp c).setClp c' = s.setClp c' := rfl
@[simp] theorem State.setClp_self : s.setClp s.clp = s := rfl

/-! ## One computer's record -/

theorem State.comp_eq (c : Comp) : s.comp c = s.cps[c] := rfl

@[simp] theorem State.comp_setComp_same (c : Comp) (r : Computer) : (s.setComp c r).comp c = r := by
  simp [State.comp]

theorem State.comp_setComp (c d : Comp) (r : Computer) : (s.setComp c r).comp d = if d = c then r else s.comp d := by
  by_cases h : d = c
  · subst h; simp [State.comp]
  · have h' : c.val ≠ d.val := fun e => h (Fin.ext e.symm)
    simp [State.comp, h, h']

@[simp] theorem State.comp_setComp_other (c d : Comp) (r : Computer) (h : d ≠ c) : (s.setComp c r).comp d = s.comp d := by
  simp [State.comp_setComp, h]

@[simp] theorem State.comp_setFcu (f : Fcu) (k : Comp) : (s.setFcu f).comp k = s.comp k := rfl
@[simp] theorem State.comp_setPtu (p : Ptu) (k : Comp) : (s.setPtu p).comp k = s.comp k := rfl
@[simp] theorem State.comp_setLco (l : Lco) (k : Comp) : (s.setLco l).comp k = s.comp k := rfl
@[simp] theorem State.comp_setWpc (w : Wpc) (k : Comp) : (s.setWpc w).comp k = s.comp k := rfl
@[simp] theorem State.comp_setRtf (r : Rtf) (k : Comp) : (s.setRtf r).comp k = s.comp k := rfl
@[simp] theorem State.comp_setHks (h : Hks) (k : Comp) : (s.setHks h).comp k = s.comp k := rfl
@[simp] theorem State.comp_setPsc (p : Psc) (k : Comp) : (s.setPsc p).comp k = s.comp k := rfl
@[simp] theorem State.comp_setClp (c : Clp) (k : Comp) : (s.setClp c).comp k = s.comp k := rfl
@[simp] theorem State.comp_setDeskPort (p : DeskPortId) (d : DeskPort) (k : Comp) : (s.setDeskPort p d).comp k = s.comp k := rfl
@[simp] theorem State.comp_notify (n : Notice) (k : Comp) : (s.notify n).comp k = s.comp k := rfl
@[simp] theorem State.comp_at (t : Time) (k : Comp) : (s.at t).comp k = s.comp k := rfl

end Sys2Proof.Machine
end

