-- ==== Sys2Proof/Laws/Moves.lean ====
section
/-! SUPPORT. Moves.lean: everything one move of the machine can do. A command makes a number of them (Laws/Commands.lean), so what
every move keeps, every step keeps. -/

namespace Sys2Proof.Machine

/-- What kind of change a move is, where a command may be known to make none of it. -/
inductive Tag where
  | clock
  | desk
  | keys
  | lock
  | write
  | preset
  | bus
  | link
  | reset
deriving DecidableEq, Repr

/-- A change of a computer record that leaves its port, its key set and, in RESUMING, its permission. -/
structure Computer.SamePort (r r' : Computer) : Prop where
  port : r'.port = r.port
  keySet : r'.keySet = r.keySet
  remoteWake : r.port = .resuming → r'.remoteWake = r.remoteWake
  room : r.queue.length ≤ 16 → r'.queue.length ≤ 16
  closed : r.port.accepting = false → r.queue = [] → r'.queue = []

/-- A change of the layout that applies chains and flips and draws: what the host has written stays. -/
structure Lco.SameWritten (l l' : Lco) : Prop where
  heads : l'.heads = l.heads
  borders : l'.borders = l.borders
  presets : l'.presets = l.presets
  lastPreset : l'.lastPreset = l.lastPreset
  placed : ∀ scr : ScreenId, l'.screens[scr].placed = l.screens[scr].placed
  rect : ∀ scr : ScreenId, l'.screens[scr].rect = l.screens[scr].rect
  alwaysOn : ∀ scr : ScreenId, l'.screens[scr].alwaysOn = l.screens[scr].alwaysOn
  background : ∀ scr : ScreenId, l'.screens[scr].background = l.screens[scr].background

/-- A change of the desk sleep record alone (R155). -/
structure Wpc.SameBut (w w' : Wpc) : Prop where
  wakes : w'.wakes = w.wakes
  power : w'.power = w.power
  wakeTimeout : w'.wakeTimeout = w.wakeTimeout
  sleepTimeout : w'.sleepTimeout = w.sleepTimeout
  standbyHold : w'.standbyHold = w.standbyHold
  law : w.DeskRecordLaw → w'.DeskRecordLaw

/-- A change of the layout that draws or flips: what the host has written stays, and so do the chains. -/
structure Lco.SameLayout (l l' : Lco) : Prop extends l.SameWritten l' where
  active : ∀ scr : ScreenId, l'.screens[scr].active = l.screens[scr].active
  pending : ∀ scr : ScreenId, l'.screens[scr].pending = l.screens[scr].pending
  records : ∀ r : TileId, l'.tiles[r].map Tile.fixed = l.tiles[r].map Tile.fixed

/-- The port part of a change of port state (R109, R110, R154): the record and the RTF's part, PORT STATE, and the end of the
wake attempt of a port that leaves RESUMING. -/
def State.portMove (c : Comp) (new : PortState) (s : State) : State :=
  let old := (s.comp c).port
  let s := s.enterPort c new
  let s := s.notify (.portState c new old (s.comp c).remoteWake)
  if old = .resuming then s.endAttempt c new.wakeEnd else s

/-- The port part of the start of a wake attempt (R151). -/
def State.wakeMove (c : Comp) (a : WakeAttempt) (s : State) : State :=
  (s.setWpc { s.wpc with wakes := s.wpc.wakes.set c (some a) }).portMove c .resuming

/-- Everything one move of the machine can do. -/
inductive Move (A : List Tag) : State → State → Prop where
  | notify (s n) : Move A s (s.notify n)
  | pointer (s) (p : Ptu) (h : p = { s.ptu with hitTile := p.hitTile, hit := p.hit, stale := p.stale }) : Move A s (s.setPtu p)
  | moved (s dx dy) (h : .desk ∈ A) : Move A s (s.setPtu (s.moved dx dy))
  | warp (s c) : Move A s (s.warp c)
  | recentre (s) : Move A s s.recentre
  | unpark (s) : Move A s (s.setFcu { s.fcu with park := none })
  | unpend (s) : Move A s (s.setFcu { s.fcu with pending := none })
  | dwell (s u d) (h : s.dwellTarget = some u) :
      Move A s (s.setFcu { s.fcu with pending := some { target := u, deadline := d } })
  | focus (s target cause guard) (h : s.fcu.lock ≠ .hard) (hr : ∀ k ∈ s.rtf.held, k.focusMember ≠ some s.fcu.focus) :
      Move A s (s.setFcu { s.fcu with focus := target, lastCause := cause, pending := none, park := none, guard := guard })
  | park (s tile) (h : s.fcu.pending = none) : Move A s (s.setFcu { s.fcu with park := some tile })
  | soft (s) (h : s.fcu.lock = .none) : Move A s (s.setFcu { s.fcu with lock := .soft, pending := none })
  | unsoft (s) (h : s.fcu.lock = .soft) : Move A s (s.setFcu { s.fcu with lock := .none })
  | unguard (s) : Move A s (s.setFcu { s.fcu with guard := none })
  | report (s c p w) : Move A s (s.handPointer c p w)
  | system (s c code) : Move A s (s.setComp c ((s.comp c).takeSystem code).1)
  | held (s) (l : List HeldKey)
      (h : ∀ k ∈ l, (∀ c, k.names c = true → (s.comp c).port.accepting = true ∨ ∃ k0 ∈ s.rtf.held, k0.names c = true) ∧
        ∀ c, k.focusMember = some c → c = s.fcu.focus ∨ ∃ k0 ∈ s.rtf.held, k0.focusMember = some c) :
      Move A s (s.setHeld l)
  | release (s f) : Move A s (s.releaseKeys f)
  | port (s c new) (h : (s.comp c).port ≠ new) (hn : new ≠ .resuming) : Move A s (s.portMove c new)
  | wake (s c a) (h : (s.comp c).port = .suspended) (hp : (s.comp c).remoteWake = true) : Move A s (s.wakeMove c a)
  | timedOut (s c) : Move A s (s.setComp c (s.comp c).timedOut)
  | layout (s l) (h : s.lco.SameLayout l) : Move A s (s.setLco l)
  | pend (s scr start) (hp : s.lco.screens[scr].placed = true) (h : s.lco.checkChain scr start = none) :
      Move A s (s.setLco (s.lco.setScreen scr { s.lco.screens[scr] with pending := some start }))
  | applied (s) (scr : ScreenId) (start) (h : s.lco.screens[scr].pending = some start) :
      Move A s (s.setLco (s.lco.setScreen scr { s.lco.screens[scr] with active := start, pending := none }))
  | power (s p) : Move A s (s.setWpc { s.wpc with power := p })
  | deskSleep (s w) (h : s.wpc.SameBut w) : Move A s (s.setWpc w)
  | panels (s p) : Move A s (s.setPsc p)
  | clock (s t) (h : .clock ∈ A) : Move A s (s.at t)
  | deskPort (s p d) (h : .desk ∈ A) : Move A s (s.setDeskPort p d)
  | hard (s) (h : .lock ∈ A) : Move A s (s.setFcu { s.fcu with lock := .hard, pending := none })
  | unhard (s l) (h : .lock ∈ A) (hl : s.fcu.lock = .hard) : Move A s (s.setFcu { s.fcu with lock := l })
  | refocus (s) (h : .lock ∈ A) (hr : s.rtf.held = []) : Move A s (s.setFcu .reset)
  | keysIdle (s) (h : .keys ∈ A) : Move A s (s.setHks s.hks.toIdle)
  | keysHold (s e next) (h : .keys ∈ A) (hl : s.hks.hold.length < 8) (hn : next ≠ .idle) :
      Move A s (s.setHks { s.hks with hold := s.hks.hold ++ [e], seq := next })
  | swallow (s p u) (h : .keys ∈ A) : Move A s (s.setHks (s.hks.swallow p u))
  | unswallow (s) (f : DeskPortId × Byte → Bool) (h : .keys ∈ A) :
      Move A s (s.setHks { s.hks with swallowed := s.hks.swallowed.filter f })
  | unhold (s) (f : KeyEvent → Bool) (h : .keys ∈ A) :
      Move A s (s.setHks { s.hks with
        hold := s.hks.hold.filter f, seq := if s.hks.hold.filter f = [] then .idle else s.hks.seq })
  | hotkeys (s table leader tap command) (h : .write ∈ A) :
      Move A s (s.setHks { s.hks with table := table, leader := leader, tapWindow := tap, commandWindow := command })
  | rules (s r) (h : .write ∈ A) : Move A s (s.setRtf { s.rtf with rules := r })
  | pointerSettings (s speed dwell guard) (h : .write ∈ A) :
      Move A s (s.setPtu { s.ptu with speed := speed, dwell := dwell, guard := guard })
  | powerSettings (s wake sleep hold) (h : .write ∈ A) :
      Move A s (s.setWpc { s.wpc with wakeTimeout := wake, sleepTimeout := sleep, standbyHold := hold })
  | lastPreset (s n) (h : .preset ∈ A) : Move A s (s.setLco { s.lco with lastPreset := n })
  | settings (s) (l : Lco) (h : .write ∈ A) (hs : l.screens = s.lco.screens) (ht : l.tiles = s.lco.tiles) : Move A s (s.setLco l)
  | tile (s r) (tile : Option Tile) (h : .write ∈ A) (hr : s.lco.inAnyChain r = false) (ht : ∀ x, tile = some x → x.Lawful) : Move A s (s.setLco (s.lco.setTile r tile))
  | place (s scr) (p : Placement) (h : .write ∈ A) (hp : s.lco.placementRefusal scr p = none) (hr : p.rect.Placeable) :
      Move A s (s.setLco (s.lco.place scr p)).keepPointer
  | record (s c r) (h : .write ∈ A ∨ .bus ∈ A) (hr : (s.comp c).SamePort r) : Move A s (s.setComp c r)
  | signal (s) (h : HeadId) (size) (ht : .bus ∈ A) :
      Move A s (s.setLco { s.lco with heads := s.lco.heads.set h { s.lco.heads[h] with size := size } })
  | select (s) (h : .link ∈ A) : Move A s (s.setClp s.clp.select)
  | openPut (s) (h : .link ∈ A) : Move A s (s.setClp s.clp.openPut)
  | closePut (s bytes) (h : .link ∈ A) : Move A s (s.setClp (s.clp.closePut bytes))
  | openTake (s) (h : .link ∈ A) : Move A s (s.setClp s.clp.openTake)
  | closeTake (s n) (h : .link ∈ A) : Move A s (s.setClp (s.clp.closeTake n))
  | openOther (s bytes) (h : .link ∈ A) : Move A s (s.setClp (s.clp.openOther bytes))
  | reply (s r rep) (h : .link ∈ A) (hi : s.clp.inbound ≠ []) : Move A s (s.setClp (s.clp.sendReply r rep))
  | restart (s r) (h : .link ∈ A) : Move A s (s.setClp (s.clp.restarted r))
  | fullReset (s) (h : .reset ∈ A) : Move A s s.fullReset

/-- Any number of moves. -/
abbrev Moves (A : List Tag) : State → State → Prop := Relation.ReflTransGen (Move A)

variable {A : List Tag} {s t : State}

/-- A move allowed under some tags is allowed under more. -/
theorem Move.mono {B : List Tag} (hB : ∀ x ∈ B, x ∈ A) : ∀ {s t : State}, Move B s t → Move A s t
  | _, _, .notify s n => .notify s n
  | _, _, .pointer s p h => .pointer s p h
  | _, _, .moved s dx dy h => .moved s dx dy (hB _ h)
  | _, _, .warp s c => .warp s c
  | _, _, .recentre s => .recentre s
  | _, _, .unpark s => .unpark s
  | _, _, .unpend s => .unpend s
  | _, _, .dwell s u d h => .dwell s u d h
  | _, _, .focus s target cause guard h hr => .focus s target cause guard h hr
  | _, _, .park s x h => .park s x h
  | _, _, .soft s h => .soft s h
  | _, _, .unsoft s h => .unsoft s h
  | _, _, .unguard s => .unguard s
  | _, _, .report s c p w => .report s c p w
  | _, _, .system s c code => .system s c code
  | _, _, .held s l h => .held s l h
  | _, _, .release s f => .release s f
  | _, _, .port s c new h hn => .port s c new h hn
  | _, _, .wake s c a h hp => .wake s c a h hp
  | _, _, .timedOut s c => .timedOut s c
  | _, _, .layout s l h => .layout s l h
  | _, _, .pend s scr start hp h => .pend s scr start hp h
  | _, _, .applied s scr start h => .applied s scr start h
  | _, _, .power s p => .power s p
  | _, _, .deskSleep s w h => .deskSleep s w h
  | _, _, .panels s p => .panels s p
  | _, _, .clock s t h => .clock s t (hB _ h)
  | _, _, .deskPort s p d h => .deskPort s p d (hB _ h)
  | _, _, .hard s h => .hard s (hB _ h)
  | _, _, .unhard s l h hl => .unhard s l (hB _ h) hl
  | _, _, .refocus s h hr => .refocus s (hB _ h) hr
  | _, _, .keysIdle s h => .keysIdle s (hB _ h)
  | _, _, .keysHold s e next h hl hn => .keysHold s e next (hB _ h) hl hn
  | _, _, .swallow s p u h => .swallow s p u (hB _ h)
  | _, _, .unswallow s f h => .unswallow s f (hB _ h)
  | _, _, .unhold s f h => .unhold s f (hB _ h)
  | _, _, .hotkeys s a b c d h => .hotkeys s a b c d (hB _ h)
  | _, _, .rules s r h => .rules s r (hB _ h)
  | _, _, .pointerSettings s a b c h => .pointerSettings s a b c (hB _ h)
  | _, _, .powerSettings s a b c h => .powerSettings s a b c (hB _ h)
  | _, _, .lastPreset s n h => .lastPreset s n (hB _ h)
  | _, _, .settings s l h hs ht => .settings s l (hB _ h) hs ht
  | _, _, .tile s r x h hr ht => .tile s r x (hB _ h) hr ht
  | _, _, .place s scr p h hp hr => .place s scr p (hB _ h) hp hr
  | _, _, .record s c r h hr => .record s c r (h.imp (hB _) (hB _)) hr
  | _, _, .signal s h size ht => .signal s h size (hB _ ht)
  | _, _, .select s h => .select s (hB _ h)
  | _, _, .openPut s h => .openPut s (hB _ h)
  | _, _, .closePut s bytes h => .closePut s bytes (hB _ h)
  | _, _, .openTake s h => .openTake s (hB _ h)
  | _, _, .closeTake s n h => .closeTake s n (hB _ h)
  | _, _, .openOther s n h => .openOther s n (hB _ h)
  | _, _, .reply s r rep h hi => .reply s r rep (hB _ h) hi
  | _, _, .restart s r h => .restart s r (hB _ h)
  | _, _, .fullReset s h => .fullReset s (hB _ h)

theorem Moves.mono {B : List Tag} (hB : ∀ x ∈ B, x ∈ A) (h : Moves B s t) : Moves A s t := by
  induction h with
  | refl => exact .refl
  | tail _ hm ih => exact ih.tail (hm.mono hB)


end Sys2Proof.Machine
end

