-- ==== Sys2Proof/Laws/Shared.lean ====
section
/-! SUPPORT. Shared.lean: the moves of the shared operations: the panel bus, glide, the screens, the keys, the ports, focus, the desk
sleep gate. -/

namespace Sys2Proof.Machine

variable {A : List Tag} {s t : State}

theorem Move.to {s t : State} (h : Move A s t) : Moves A s t := .single h

theorem moves_foldl {α : Type} {f : State → α → State} (h : ∀ s a, Moves A s (f s a)) (l : List α) (s : State) :
    Moves A s (l.foldl f s) := by
  induction l generalizing s with
  | nil => exact .refl
  | cons a l ih => exact (h s a).trans (ih _)

/-! ## The panel bus and glide -/

theorem State.startBus_eq (s : State) : ∃ p, s.startBus = s.setPsc p := by
  unfold State.startBus; split
  · exact ⟨_, rfl⟩
  · exact ⟨s.psc, rfl⟩

theorem State.deriveLeds_eq (s : State) : ∃ p, s.deriveLeds = s.setPsc p := by
  obtain ⟨p, h⟩ := State.startBus_eq { s with psc := s.psc.markWrites s.pattern }
  exact ⟨p, h⟩

theorem State.endTransaction_eq (s : State) : ∃ p, s.endTransaction = s.setPsc p := by
  obtain ⟨p, h⟩ := State.startBus_eq { s with psc := { s.psc with bus := none } }
  exact ⟨p, h⟩

theorem State.startBus_moves : Moves A s s.startBus := by
  obtain ⟨p, h⟩ := s.startBus_eq; rw [h]; exact .single (.panels s p)

theorem State.deriveLeds_moves : Moves A s s.deriveLeds := by
  obtain ⟨p, h⟩ := s.deriveLeds_eq; rw [h]; exact .single (.panels s p)

theorem State.endTransaction_moves : Moves A s s.endTransaction := by
  obtain ⟨p, h⟩ := s.endTransaction_eq; rw [h]; exact .single (.panels s p)

theorem State.makeHitTest_moves : Moves A s s.makeHitTest := .single (.pointer _ _ rfl)

theorem State.clearPark_moves : Moves A s s.clearPark := by
  unfold State.clearPark; split
  · split
    · exact .refl
    · exact .single (.unpark s)
  · exact .refl

theorem State.glideDecision_moves : Moves A s s.glideDecision := by
  unfold State.glideDecision; split
  · rename_i u h; split
    · exact .refl
    · exact .single (.dwell s u _ h)
  · exact .single (.unpend s)

theorem State.glideDecisionNoStart_moves : Moves A s s.glideDecisionNoStart := by
  unfold State.glideDecisionNoStart; split
  · split
    · exact .refl
    · exact .single (.unpend s)
  · exact .single (.unpend s)

theorem State.reevaluateCore_moves : Moves A s s.reevaluateCore :=
  State.makeHitTest_moves.trans (State.clearPark_moves.trans State.glideDecision_moves)

/-! ## Screens -/

section
variable {re : State → State}

theorem Lco.SameWritten.refl (l : Lco) : l.SameWritten l := by constructor <;> simp

theorem Lco.SameWritten.trans {a b c : Lco} (h : a.SameWritten b) (k : b.SameWritten c) : a.SameWritten c := by
  constructor
  · rw [k.heads, h.heads]
  · rw [k.borders, h.borders]
  · rw [k.presets, h.presets]
  · rw [k.lastPreset, h.lastPreset]
  all_goals intro scr
  · rw [k.placed, h.placed]
  · rw [k.rect, h.rect]
  · rw [k.alwaysOn, h.alwaysOn]
  · rw [k.background, h.background]

theorem Lco.setTile_same (l : Lco) (r : TileId) (t : Option Tile) : l.SameWritten (l.setTile r t) := by
  constructor <;> simp [Lco.setTile]

theorem Lco.setScreen_same (l : Lco) (scr : ScreenId) (x : Screen) (hp : x.placed = l.screens[scr].placed)
    (hr : x.rect = l.screens[scr].rect) (ha : x.alwaysOn = l.screens[scr].alwaysOn)
    (hb : x.background = l.screens[scr].background) : l.SameWritten (l.setScreen scr x) := by
  have key : ∀ o : ScreenId, (l.setScreen scr x).screens[o] = if o = scr then x else l.screens[o] := by
    intro o
    by_cases h : o = scr
    · subst h; simp [Lco.setScreen]
    · have h' : scr.val ≠ o.val := fun e => h (Fin.ext e.symm)
      simp [Lco.setScreen, h, h']
  constructor
  · rfl
  · rfl
  · rfl
  · rfl
  all_goals
    intro o; rw [key]; split
    · subst_vars; assumption
    · rfl

theorem Lco.SameLayout.refl (l : Lco) : l.SameLayout l := { Lco.SameWritten.refl l with
  active := fun _ => rfl, pending := fun _ => rfl, records := fun _ => rfl }

theorem Lco.SameLayout.trans {a b c : Lco} (h : a.SameLayout b) (k : b.SameLayout c) : a.SameLayout c :=
  { h.toSameWritten.trans k.toSameWritten with
    active := fun scr => (k.active scr).trans (h.active scr)
    pending := fun scr => (k.pending scr).trans (h.pending scr)
    records := fun r => (k.records r).trans (h.records r) }

/-- A record changed in its other fields keeps every chain. -/
theorem Lco.setTile_layout (l : Lco) (r : TileId) (tile tile' : Tile) (h : l.tiles[r] = some tile)
    (hl : tile'.fixed = tile.fixed) : l.SameLayout (l.setTile r (some tile')) :=
  { l.setTile_same r (some tile') with
    active := fun _ => rfl, pending := fun _ => rfl
    records := fun q => by
      by_cases hq : r.val = q.val
      · obtain rfl := Fin.ext hq
        simp only [Lco.setTile, Fin.getElem_fin, Vector.getElem_set_self, Option.map_some, hl]
        rw [show l.tiles[r.val] = l.tiles[r] from rfl, h, Option.map_some]
      · simp [Lco.setTile, hq] }

/-- A frame drawn, or no frame, keeps every chain. -/
theorem Lco.draw_layout (l : Lco) (scr : ScreenId) (d : Option Image) :
    l.SameLayout (l.setScreen scr { l.screens[scr] with drawn := d }) :=
  { l.setScreen_same scr { l.screens[scr] with drawn := d } rfl rfl rfl rfl with
    active := fun o => by
      by_cases h : scr.val = o.val
      · obtain rfl := Fin.ext h; simp [Lco.setScreen]
      · simp [Lco.setScreen, h]
    pending := fun o => by
      by_cases h : scr.val = o.val
      · obtain rfl := Fin.ext h; simp [Lco.setScreen]
      · simp [Lco.setScreen, h]
    records := fun _ => rfl }

theorem Tile.withFlipPending_fixed (tile : Tile) (b : Bool) : (tile.withFlipPending b).fixed = tile.fixed := by
  obtain ⟨n, r, k⟩ := tile; cases k <;> rfl

theorem Tile.flipped_fixed (tile : Tile) : tile.flipped.fixed = tile.fixed := by
  obtain ⟨n, r, k⟩ := tile; cases k <;> rfl

theorem Lco.clearFlips_layout (l : Lco) (rs : List TileId) : l.SameLayout (l.clearFlips rs) := by
  unfold Lco.clearFlips
  induction rs generalizing l with
  | nil => exact .refl l
  | cons r rs ih =>
    refine Lco.SameLayout.trans ?_ (ih _)
    dsimp only
    split
    · rename_i tile h
      exact l.setTile_layout _ _ _ h (tile.withFlipPending_fixed false)
    · exact .refl l

theorem State.applyFlip_moves (scr : ScreenId) (r : TileId) : Moves A s (s.applyFlip scr r).1 := by
  unfold State.applyFlip; split
  · rename_i tile h
    split
    · exact (Move.layout s _ (s.lco.setTile_layout _ _ _ h tile.flipped_fixed)).to.trans (.single (.notify _ _))
    · exact .refl
  · exact .refl

theorem State.applyFlips_moves (scr : ScreenId) (rs : List TileId) (s : State) :
    Moves A s (State.applyFlips scr rs s).1 := by
  induction rs generalizing s with
  | nil => exact .refl
  | cons r rs ih => exact State.applyFlip_moves scr r |>.trans (ih _)

theorem State.applyPending_moves (scr : ScreenId) (b : Bool) : Moves A s (s.applyPending scr b).1 := by
  unfold State.applyPending; split
  · exact .refl
  · rename_i start h
    refine (Move.applied s scr start h).to.trans ?_
    exact (Move.layout _ _ (Lco.clearFlips_layout _ _)).to.trans (.single (.notify _ _))

theorem State.applyWaiting_moves (scr : ScreenId) (b : Bool) : Moves A s (s.applyWaiting scr b).1 :=
  (State.applyPending_moves scr b).trans (State.applyFlips_moves scr _ _)

theorem State.tellPointer_moves (hre : ∀ s, Moves A s (re s)) (scr : ScreenId) : Moves A s (s.tellPointer re scr) := by
  unfold State.tellPointer; split
  · exact hre s
  · exact .refl

theorem State.setPower_moves (scr : ScreenId) (p : Power) : Moves A s (s.setPower scr p) := by
  refine (Move.power s (s.wpc.power.set scr p)).to.trans ?_
  unfold State.setPower
  by_cases h : p.isStandby = true
  · simp only [h, if_true]
    refine (Move.layout _ (s.lco.setScreen scr { s.lco.screens[scr] with drawn := none }) ?_).to.trans (.single (.notify _ _))
    exact s.lco.draw_layout scr none
  · simp only [h]
    exact .single (.notify _ _)

theorem State.leaveStandbyIfLit_moves (scr : ScreenId) : Moves A s (s.leaveStandbyIfLit scr) := by
  unfold State.leaveStandbyIfLit; split
  · exact State.setPower_moves scr _
  · exact .refl

theorem State.applyAtOnce_moves (hre : ∀ s, Moves A s (re s)) (scr : ScreenId) : Moves A s (s.applyAtOnce re scr) := by
  unfold State.applyAtOnce
  dsimp only
  have h := State.applyWaiting_moves (A := A) (s := s) scr true
  split
  · exact h.trans ((State.leaveStandbyIfLit_moves scr).trans (State.tellPointer_moves hre scr))
  · exact h

theorem State.enterStandby_moves (hre : ∀ s, Moves A s (re s)) (scr : ScreenId) (f : Bool) :
    Moves A s (s.enterStandby re scr f) := (State.setPower_moves scr _).trans (State.applyAtOnce_moves hre scr)

theorem State.reevaluateScreen_moves (hre : ∀ s, Moves A s (re s)) (s : State) (scr : ScreenId) :
    Moves A s (State.reevaluateScreen re s scr) := by
  unfold State.reevaluateScreen; split
  · exact .refl
  · split
    · split
      · split
        · exact State.enterStandby_moves hre scr _
        · exact State.setPower_moves scr _
      · exact .refl
    · split
      · exact .refl
      · exact State.setPower_moves scr _
    · exact State.leaveStandbyIfLit_moves scr

theorem State.reevaluateScreens_moves (hre : ∀ s, Moves A s (re s)) : Moves A s (s.reevaluateScreens re) :=
  moves_foldl (State.reevaluateScreen_moves hre) _ _

theorem State.forceStandby_moves (hre : ∀ s, Moves A s (re s)) (s : State) (scr : ScreenId) :
    Moves A s (State.forceStandby re s scr) := by
  unfold State.forceStandby; split
  · exact .refl
  · exact State.enterStandby_moves hre scr _

theorem State.leaveForced_moves (s : State) (scr : ScreenId) : Moves A s (s.leaveForced scr) := by
  unfold State.leaveForced; split
  · split
    · exact State.setPower_moves scr _
    · split
      · exact State.setPower_moves scr _
      · exact .single (.power s _)
  · exact .refl

theorem State.draw_moves (scr : ScreenId) (d : Option Image) :
    Moves A s (s.setLco (s.lco.setScreen scr { s.lco.screens[scr] with drawn := d })) :=
  .single (.layout s _ (s.lco.draw_layout scr d))

theorem State.frameStart_moves (hre : ∀ s, Moves A s (re s)) (scr : ScreenId) : Moves A s (s.frameStart re scr) := by
  unfold State.frameStart; split
  · exact .refl
  · have h := State.applyWaiting_moves (A := A) (s := s) scr false
    dsimp only
    generalize s.applyWaiting scr false = w at h ⊢
    obtain ⟨u, any⟩ := w
    dsimp only at h ⊢
    have h' := h.trans (State.draw_moves (s := u) scr (some (u.frame scr)))
    split
    · exact h'.trans ((State.reevaluateScreen_moves hre _ scr).trans (State.tellPointer_moves hre scr))
    · exact h'

theorem State.takeChain_moves (hre : ∀ s, Moves A s (re s)) (scr : ScreenId) (start : Option TileId)
    (hp : s.lco.screens[scr].placed = true) (hc : s.lco.checkChain scr start = none) :
    Moves A s (s.takeChain re scr start).1 := by
  unfold State.takeChain
  dsimp only
  have h := (Move.pend (A := A) s scr start hp hc).to
  split
  · exact h.trans (State.applyAtOnce_moves hre scr)
  · exact h

theorem State.askFlip_moves (hre : ∀ s, Moves A s (re s)) (r : TileId) (h : s.askFlip re r = some t) : Moves A s t := by
  unfold State.askFlip at h; split at h
  · rename_i scr tile _ ht
    cases h
    have h := (Move.layout (A := A) s _ (s.lco.setTile_layout r _ _ ht (tile.withFlipPending_fixed true))).to
    split
    · exact h.trans (State.applyAtOnce_moves hre _)
    · exact h
  · cases h
end

/-! ## Keys -/

theorem State.routeBreak_moves (p : DeskPortId) (u : Byte) : Moves A s (s.routeBreak p u) := by
  unfold State.routeBreak; split
  · refine .single (.held s _ ?_)
    intro k hk
    have hk := (List.mem_filter.mp hk).1
    exact ⟨fun c hc => .inr ⟨k, hk, hc⟩, fun c hc => .inr ⟨k, hk, hc⟩⟩
  · exact .refl

/-- The set built along a list of computers: what was in it before, and the computers of the list that meet the test. -/
theorem inSet_foldl (test : Comp → Bool) (d : Comp) (l : List Comp) (a : CompSet) :
    inSet (l.foldl (fun acc c => if test c then acc ||| (1 <<< c.val) else acc) a) d =
      (inSet a d || (decide (d ∈ l) && test d)) := by
  have bit : ∀ c d : Comp, inSet ((1 <<< c.val : Nat) : CompSet) d = decide (d = c) := by decide
  induction l generalizing a with
  | nil => simp
  | cons c l ih =>
    have hc : inSet (a ||| ((1 <<< c.val : Nat) : CompSet)) d = (inSet a d || decide (d = c)) := by
      rw [← bit c d, inSet, inSet, inSet, BitVec.getLsbD_or]
    rw [List.foldl_cons, ih]
    by_cases h : d = c
    · subst h; cases test d <;> simp only [hc, Bool.false_eq_true, if_false, if_true] <;> simp
    · cases test c <;> simp only [hc, Bool.false_eq_true, if_false, if_true] <;> simp [h]

theorem inSet_compSetOf (test : Comp → Bool) (c : Comp) : inSet (compSetOf test) c = test c := by
  have all : ∀ c : Comp, c ∈ allComps := by decide
  have empty : ∀ c : Comp, inSet 0 c = false := by decide
  rw [compSetOf, inSet_foldl, empty]; simp [all]

theorem State.newEntry_names (p : DeskPortId) (u : Byte) (d : Destination) (c : Comp)
    (h : (s.newEntry p u d).names c = true) : (s.comp c).port.accepting = true := by
  unfold State.newEntry HeldKey.names at h
  rw [Bool.or_eq_true] at h
  rcases h with h | h
  · dsimp only at h
    split at h
    · rename_i hh
      simp only [Option.some.injEq, decide_eq_true_eq] at h
      subst h
      simp only [Bool.and_eq_true] at hh
      exact hh.2
    · simp at h
  · dsimp only at h
    rw [inSet_compSetOf] at h
    simp only [Bool.and_eq_true] at h
    exact h.2

theorem State.newEntry_focus (p : DeskPortId) (u : Byte) (d : Destination) (c : Comp)
    (h : (s.newEntry p u d).focusMember = some c) : c = s.fcu.focus := by
  unfold State.newEntry at h
  dsimp only at h
  split at h
  · exact (Option.some.inj h).symm
  · cases h

theorem State.createEntry_moves (p : DeskPortId) (u : Byte) (d : Destination) : Moves A s (s.createEntry p u d) := by
  refine (State.routeBreak_moves p u).trans (.single (.held _ _ ?_))
  intro k hk
  rcases List.mem_append.mp hk with hk | hk
  · exact ⟨fun c hc => .inr ⟨k, hk, hc⟩, fun c hc => .inr ⟨k, hk, hc⟩⟩
  · rw [List.mem_singleton] at hk
    subst hk
    exact ⟨fun c hc => .inl (State.newEntry_names _ _ _ _ hc), fun c hc => .inl (State.newEntry_focus _ _ _ _ hc)⟩

theorem State.releaseKeys_moves (f : Comp) : Moves A s (s.releaseKeys f) := .single (.release s f)

/-- R48, R50: a key set recomputed changes the records of the computers alone. -/
theorem State.refreshKeys_eq (s : State) (c : Comp) : ∃ cps, s.refreshKeys c = { s with cps := cps } := by
  unfold State.refreshKeys; dsimp only; split
  · exact ⟨s.cps, rfl⟩
  · exact ⟨_, rfl⟩

theorem State.foldl_refreshKeys_eq (cs : List Comp) (s : State) : ∃ cps, cs.foldl State.refreshKeys s = { s with cps := cps } := by
  induction cs generalizing s with
  | nil => exact ⟨s.cps, rfl⟩
  | cons c cs ih =>
    obtain ⟨v, hv⟩ := s.refreshKeys_eq c
    obtain ⟨w, hw⟩ := ih (s.refreshKeys c)
    exact ⟨w, by rw [List.foldl_cons, hw, hv]⟩

/-- A change of the held key table changes that table and the records of the computers alone. -/
theorem State.setHeld_eq (s : State) (l : List HeldKey) :
    ∃ cps, s.setHeld l = { s with rtf := { s.rtf with held := l }, cps := cps } := by
  obtain ⟨v, hv⟩ := State.foldl_refreshKeys_eq allComps (s.setRtf { s.rtf with held := l })
  exact ⟨v, hv⟩

/-- R51: the release changes the held key table and the records of the computers alone. -/
theorem State.releaseKeys_eq (s : State) (f : Comp) :
    ∃ cps, s.releaseKeys f = { s with
      rtf := { s.rtf with held := s.rtf.held.map (fun k => if k.focusMember = some f then { k with focusMember := none } else k) },
      cps := cps } := by
  unfold State.releaseKeys
  obtain ⟨v, hv⟩ := State.refreshKeys_eq (s.setRtf { s.rtf with held := s.rtf.held.map (fun k =>
    if k.focusMember = some f then { k with focusMember := none } else k) }) f
  exact ⟨v, hv⟩

theorem State.setHeld_held (l : List HeldKey) (s : State) : (s.setHeld l).rtf.held = l := by
  obtain ⟨v, hv⟩ := s.setHeld_eq l
  rw [hv]

/-- R51: after the release no entry has the released computer as its focus member. -/
theorem State.releaseKeys_member (f : Comp) : ∀ k ∈ (s.releaseKeys f).rtf.held, k.focusMember ≠ some f := by
  intro k hk
  obtain ⟨v, hv⟩ := s.releaseKeys_eq f
  rw [hv] at hk
  obtain ⟨k0, _, rfl⟩ := List.mem_map.mp hk
  split
  · simp
  · assumption

/-! ## Ports -/

section
variable {re : State → State}

theorem Wpc.SameBut.trans {a b c : Wpc} (h : a.SameBut b) (k : b.SameBut c) : a.SameBut c where
  wakes := by rw [k.wakes, h.wakes]
  power := by rw [k.power, h.power]
  wakeTimeout := by rw [k.wakeTimeout, h.wakeTimeout]
  sleepTimeout := by rw [k.sleepTimeout, h.sleepTimeout]
  standbyHold := by rw [k.standbyHold, h.standbyHold]
  law := fun l => k.law (h.law l)

theorem State.enterAsleep_moves (hre : ∀ s, Moves A s (re s)) (cause : DeskCause) : Moves A s (s.enterAsleep re cause) := by
  refine (Move.deskSleep s { s.wpc with deskDeadline := none, desk := .asleep } ?_).to.trans
    ((Move.notify _ _).to.trans (moves_foldl (State.forceStandby_moves hre) _ _))
  exact ⟨rfl, rfl, rfl, rfl, rfl, fun _ => ⟨by simp, by simp⟩⟩

theorem State.completionTest_moves (hre : ∀ s, Moves A s (re s)) : Moves A s (s.completionTest re) := by
  unfold State.completionTest; split
  · exact State.enterAsleep_moves hre _
  · exact .refl

/-- R110, R157: a change of port state is its port part and then its neighbours' parts. -/
theorem State.afterChange_moves (hre : ∀ s, Moves A s (re s)) (c : Comp) (new : PortState) :
    Moves A (s.portMove c new) ((s.enterPort c new).afterChange re c (s.comp c).port new) := by
  have key : ∀ (u : State) (b : Bool), Moves A u
      ((State.reevaluateScreens re (if b then u.completionTest re else u)).deriveLeds) := by
    intro u b
    have h : Moves A u (if b then u.completionTest re else u) := by
      split
      · exact State.completionTest_moves hre
      · exact .refl
    exact h.trans ((State.reevaluateScreens_moves hre).trans State.deriveLeds_moves)
  exact key _ _

theorem State.changePort_moves (hre : ∀ s, Moves A s (re s)) (c : Comp) (new : PortState) (hn : new ≠ .resuming) :
    Moves A s (s.changePort re c new) := by
  unfold State.changePort
  dsimp only
  split
  · exact .refl
  · rename_i h
    exact (Move.port s c new h hn).to.trans (State.afterChange_moves hre c new)

theorem State.wake_moves (hre : ∀ s, Moves A s (re s)) (c : Comp) (cause : WakeCause) : Moves A s (s.wake re c cause) := by
  unfold State.wake
  split
  · rename_i h
    have hp : (s.comp c).port = .suspended ∧ (s.comp c).remoteWake = true := by
      unfold Computer.wakeAnswer at h
      split at h <;> simp_all
    dsimp only
    generalize ({ cause := cause, start := s.clock, deadline := s.clock + s.wpc.wakeTimeout } : WakeAttempt) = a
    refine (Move.wake s c a hp.1 hp.2).to.trans ?_
    unfold State.changePort
    dsimp only [State.comp_setWpc]
    rw [if_neg (by rw [hp.1]; decide)]
    exact State.afterChange_moves hre c _
  · exact .single (.notify _ _)
  · exact .refl
  · exact .refl

theorem State.inputWake_moves (hre : ∀ s, Moves A s (re s)) (s : State) (c : Comp) : Moves A s (State.inputWake re s c) := by
  unfold State.inputWake; split
  · exact State.wake_moves hre c _
  · exact .refl
end

/-! ## Focus -/

theorem State.releaseButtons_moves (s : State) (c : Comp) : Moves A s (s.releaseButtons c) := by
  unfold State.releaseButtons; split
  · split
    · exact .refl
    · exact .single (.report _ _ _ _)
  · exact .refl

theorem State.markStale_moves : Moves A s s.markStale := .single (.pointer _ _ rfl)

theorem State.warp_moves (c : Comp) : Moves A s (s.warp c) := .single (.warp s c)

@[simp] theorem State.makeHitTest_fcu : s.makeHitTest.fcu = s.fcu := rfl

@[simp] theorem State.warp_fcu (c : Comp) : (s.warp c).fcu = s.fcu := by
  unfold State.warp; split <;> rfl

theorem State.warpAndPark_moves (c : Comp) (cause : FocusCause) (h : s.fcu.pending = none) :
    Moves A s (s.warpAndPark c cause) := by
  unfold State.warpAndPark; split
  · exact State.makeHitTest_moves
  · have hm := (State.warp_moves (A := A) (s := s) c).trans State.makeHitTest_moves
    dsimp only
    split
    · exact hm
    · exact hm.trans (.single (.park _ _ (by simpa using h)))

theorem State.wakeForFocus_moves (c : Comp) : Moves A s (s.wakeForFocus c) := by
  unfold State.wakeForFocus; split
  · exact State.wake_moves (fun _ => State.reevaluateCore_moves) c _
  · exact .refl

theorem State.arrive_moves (c : Comp) : Moves A s (s.arrive c) := by
  have h : Moves A s s.makeHitTest.clearPark.glideDecisionNoStart :=
    State.makeHitTest_moves.trans (State.clearPark_moves.trans State.glideDecisionNoStart_moves)
  unfold State.arrive
  dsimp only
  split
  · split
    · exact h.trans (.single (.report _ _ _ _))
    · exact h
  · exact h

@[simp] theorem State.refreshKeys_fcu (c : Comp) : (s.refreshKeys c).fcu = s.fcu := by
  unfold State.refreshKeys; dsimp only; split <;> rfl

@[simp] theorem State.releaseKeys_fcu (c : Comp) : (s.releaseKeys c).fcu = s.fcu := by
  unfold State.releaseKeys; simp

@[simp] theorem State.releaseButtons_fcu (c : Comp) : (s.releaseButtons c).fcu = s.fcu := by
  unfold State.releaseButtons; split
  · split <;> rfl
  · rfl

@[simp] theorem State.markStale_fcu : s.markStale.fcu = s.fcu := rfl

theorem State.writeFocus_moves (c : Comp) (cause : FocusCause) (h : s.fcu.lock ≠ .hard)
    (hr : ∀ k ∈ s.rtf.held, k.focusMember ≠ some s.fcu.focus) :
    Moves A s (s.writeFocus c cause) := .single (.focus s c cause _ h hr)

theorem State.changeFocus_moves (c : Comp) (cause : FocusCause) (h : s.fcu.lock ≠ .hard) :
    Moves A s (s.changeFocus c cause) := by
  unfold State.changeFocus
  refine (State.releaseButtons_moves s s.fcu.focus).trans ?_
  refine State.markStale_moves.trans ?_
  refine (State.releaseKeys_moves s.fcu.focus).trans ?_
  refine (State.writeFocus_moves c cause (by simpa using h) (by simpa using State.releaseKeys_member (s := _) s.fcu.focus)).trans ?_
  refine (State.warpAndPark_moves c cause rfl).trans ?_
  refine (State.wakeForFocus_moves c).trans ?_
  refine (State.arrive_moves c).trans ?_
  exact (Move.notify _ _).to.trans State.deriveLeds_moves

theorem Fcu.judge_done {f : Fcu} {c : Comp} {cause : FocusCause} {forced : Bool} (h : f.judge c cause forced = .done) :
    f.focus ≠ c ∧ (f.lock = .hard → forced = true) := by
  unfold Fcu.judge at h
  split at h
  · cases h
  · split at h
    · cases h
    · split at h
      · cases h
      · rename_i h1 h2 h3
        refine ⟨h2, fun hh => ?_⟩
        by_contra hf
        exact h3 ⟨hh, hf⟩

theorem State.lockOnLeavingHard_ne (s : State) : s.lockOnLeavingHard ≠ .hard := by
  unfold State.lockOnLeavingHard; split <;> decide

theorem State.grant_moves (c : Comp) (cause : FocusCause) (forced : Bool) (hA : forced = true → .lock ∈ A) :
    Moves A s (s.grant c cause forced) := by
  unfold State.grant
  split
  · rename_i hj
    have hj := Fcu.judge_done hj
    dsimp only
    split
    · rename_i hl
      refine (Move.unhard s s.lockOnLeavingHard (hA (hj.2 hl)) hl).to.trans ?_
      exact State.changeFocus_moves c cause s.lockOnLeavingHard_ne
    · rename_i hl
      exact State.changeFocus_moves c cause hl
  · exact .refl
  · exact .refl

theorem State.takeDeferredGlide_moves : Moves A s s.takeDeferredGlide := by
  unfold State.takeDeferredGlide; split
  · split
    · exact State.grant_moves _ _ _ (by simp)
    · exact .refl
  · exact .refl

theorem State.requestFocus_moves (c : Comp) (cause : FocusCause) (forced : Bool) (hA : forced = true → .lock ∈ A) :
    Moves A s (s.requestFocus c cause forced) := by
  unfold State.requestFocus; split
  · exact (State.grant_moves c cause forced hA).trans State.takeDeferredGlide_moves
  · exact .refl
  · exact .refl

theorem State.reevaluate_moves (s : State) : Moves A s s.reevaluate := by
  unfold State.reevaluate; split
  · exact State.reevaluateCore_moves.trans (State.requestFocus_moves _ _ _ (by simp))
  · exact State.reevaluateCore_moves

theorem State.setSoft_moves : Moves A s s.setSoft := by
  unfold State.setSoft; split
  · rename_i h; exact .single (.soft s h)
  · exact .refl

theorem State.clearSoft_moves : Moves A s s.clearSoft := by
  unfold State.clearSoft; split
  · rename_i h; exact (Move.unsoft s h).to.trans (State.reevaluate_moves _)
  · exact .refl

theorem State.setHard_moves (hA : .lock ∈ A) : Moves A s s.setHard := by
  unfold State.setHard; split
  · exact .refl
  · exact (Move.hard s hA).to.trans (.single (.notify _ _))

theorem State.clearHard_moves (hA : .lock ∈ A) : Moves A s s.clearHard := by
  unfold State.clearHard; split
  · rename_i h; exact (Move.unhard s _ hA h).to.trans (.single (.notify _ _))
  · exact .refl

/-! ## Desk sleep -/

theorem State.handSystem_moves (c : Comp) (code : SystemCode) : Moves A s (s.handSystem c code) := by
  have h := (Move.system (A := A) s c code).to
  unfold State.handSystem
  dsimp only
  split
  · exact h.trans (.single (.notify _ _))
  · exact h

theorem State.handCode_moves (code : SystemCode) (s : State) (c : Comp) : Moves A s (State.handCode code s c) :=
  (State.handSystem_moves c code).trans (State.handSystem_moves c .none)

theorem State.handSystem_setWpc (w : Wpc) (c : Comp) (code : SystemCode) :
    (s.setWpc w).handSystem c code = (s.handSystem c code).setWpc w := by
  unfold State.handSystem
  dsimp only [State.comp_setWpc]
  split <;> rfl

theorem State.handCode_setWpc (w : Wpc) (c : Comp) (code : SystemCode) :
    State.handCode code (s.setWpc w) c = (State.handCode code s c).setWpc w := by
  unfold State.handCode; rw [State.handSystem_setWpc, State.handSystem_setWpc]

theorem State.foldl_handCode_setWpc (w : Wpc) (code : SystemCode) (l : List Comp) (s : State) :
    l.foldl (State.handCode code) (s.setWpc w) = (l.foldl (State.handCode code) s).setWpc w := by
  induction l generalizing s with
  | nil => rfl
  | cons c l ih => rw [List.foldl_cons, State.handCode_setWpc, ih]; rfl

@[simp] theorem State.handSystem_wpc (c : Comp) (code : SystemCode) : (s.handSystem c code).wpc = s.wpc := by
  unfold State.handSystem
  dsimp only
  split <;> rfl

@[simp] theorem State.handCode_wpc (c : Comp) (code : SystemCode) : (State.handCode code s c).wpc = s.wpc := by
  simp [State.handCode]

@[simp] theorem State.foldl_handCode_wpc (code : SystemCode) (l : List Comp) (s : State) :
    (l.foldl (State.handCode code) s).wpc = s.wpc := by
  induction l generalizing s with
  | nil => rfl
  | cons c l ih => rw [List.foldl_cons, ih]; simp

theorem State.startSleep_moves : Moves A s s.startSleep := by
  unfold State.startSleep
  dsimp only
  rw [State.foldl_handCode_setWpc]
  refine (moves_foldl (State.handCode_moves .sleep) ((allComps.filter (inSet s.sleepers))) s).trans ?_
  generalize hu : (allComps.filter (inSet s.sleepers)).foldl (State.handCode .sleep) s = u
  have hw : u.wpc = s.wpc := by rw [← hu]; simp
  refine (Move.deskSleep u { u.wpc with
    awaited := s.sleepers, deskDeadline := some (u.clock + s.wpc.sleepTimeout), desk := .sleepRequested } ?_).to.trans ?_
  · exact ⟨rfl, rfl, rfl, rfl, rfl, fun _ => ⟨by simp, by simp⟩⟩
  · refine Relation.ReflTransGen.trans ?_ (State.completionTest_moves State.reevaluate_moves)
    rw [← hw]
    exact .single (.notify _ _)

theorem State.cancelSleep_moves (cause : DeskCause) : Moves A s (s.cancelSleep cause) := by
  have key : ∀ l : List Comp, Moves A s
      (let s1 := s.setWpc { s.wpc with deskDeadline := none }
       let s2 := l.foldl (State.handCode .wake) s1
       let s3 := s2.setWpc { s2.wpc with awaited := 0 }
       s3.setDesk .awake cause s.wpc.awaited) := by
    intro l
    dsimp only
    rw [State.foldl_handCode_setWpc]
    refine (moves_foldl (State.handCode_moves .wake) l s).trans ?_
    generalize hu : l.foldl (State.handCode .wake) s = u
    have hw : u.wpc = s.wpc := by rw [← hu]; simp
    refine (Move.deskSleep u { u.wpc with deskDeadline := none, awaited := 0, desk := .awake } ?_).to.trans ?_
    · exact ⟨rfl, rfl, rfl, rfl, rfl, fun _ => ⟨by simp, by simp⟩⟩
    · rw [← hw]
      exact .single (.notify _ _)
  exact key _

theorem State.wakeDesk_moves (cause : DeskCause) (h : s.wpc.desk = .asleep) : Moves A s (s.wakeDesk cause) := by
  unfold State.wakeDesk
  dsimp only
  refine (Move.deskSleep s { s.wpc with awaited := 0, desk := .awake } ?_).to.trans
    ((Move.notify _ _).to.trans (moves_foldl State.leaveForced_moves _ _))
  refine ⟨rfl, rfl, rfl, rfl, rfl, fun hl => ⟨by simp, ?_⟩⟩
  have := hl.2
  rw [h] at this
  simpa using this

theorem State.wakeDeskByInput_moves (h : s.wpc.desk = .asleep) : Moves A s s.wakeDeskByInput := by
  unfold State.wakeDeskByInput
  dsimp only
  split
  · exact (State.wakeDesk_moves _ h).trans (State.wake_moves State.reevaluate_moves _ _)
  · exact State.wakeDesk_moves _ h

theorem State.markConsumed_moves (e : DeskEvent) : Moves A s (s.markConsumed e) := by
  unfold State.markConsumed; split
  · exact .single (.pointer _ _ rfl)
  · exact .refl

theorem State.gate_moves (e : DeskEvent) : Moves A s (s.gate e).1 := by
  unfold State.gate; split
  · exact .refl
  · dsimp only
    split
    · exact State.cancelSleep_moves _
    · exact .refl
  · rename_i h
    split
    · exact .refl
    · split
      · exact (State.wakeDeskByInput_moves h).trans (State.markConsumed_moves e)
      · exact .refl

/-! ## The operations of a report's keys, of the panel bus and of another opening byte -/

/-- A usage among no earlier key of the new report is added where the new report has it (R8). -/
theorem addInSlot_at (before after kept : List Byte) (u : Byte) (h : u ∉ before) :
    addInSlot (before ++ u :: after) u (before ++ kept) = before ++ u :: kept := by
  have hi : (before ++ u :: after).idxOf u = before.length := by simp [List.idxOf_append, h]
  simp [addInSlot, hi]

@[simp] theorem Psc.scanned_panels (p : Psc) : p.scanned.panels = [] := rfl

@[simp] theorem Psc.scanned_scanner (p : Psc) : p.scanned.scanner = .scanning 0 := rfl

/-- What a scan's start leaves on the bus: the transaction there, or the first probe (R167, R168). -/
theorem Psc.scanned_bus (p : Psc) :
    p.scanned.bus = some ((p.bus.map BusTransaction.letFinish).getD (.probe 0)) := rfl

/-- Whatever is found while a write is on the bus, what the write carries stays, and once changed it stays changed (R170). -/
@[simp] theorem BusTransaction.sees_write (pattern low high : Byte) (n : Nat) (changed : Bool) :
    BusTransaction.sees pattern (.write n low high changed) = .write n low high (changed || decide (pattern ≠ high)) := rfl

@[simp] theorem Psc.markWrites_scanner (pattern : Byte) (p : Psc) : (p.markWrites pattern).scanner = p.scanner := rfl

@[simp] theorem Psc.markWrites_bus (pattern : Byte) (p : Psc) :
    (p.markWrites pattern).bus = p.bus.map (BusTransaction.sees pattern) := rfl

@[simp] theorem State.startScan_clp (s : State) : s.startScan.clp = s.clp := rfl

/-- Another opening byte in a selected transaction: zeros for the later bytes, and nothing else (R174). -/
theorem Clp.openOther_selected (c : Clp) (status opening : Byte) (later : List Byte) (h : c.spi = .selected status) :
    c.openOther (opening :: later) = { c with spi := .ignoring, spiOut := status :: List.replicate later.length 0 } := by
  simp [Clp.openOther, h]

end Sys2Proof.Machine
end

