-- ==== Sys2Proof/Laws/Commands.lean ====
section
/-! SUPPORT. Commands.lean: the moves of every command: presets, hotkeys, the pointer, the desk ports, the computer buses, the
panels, the link and the requests. -/

namespace Sys2Proof.Machine

variable {A : List Tag} {s t : State}

/-! ## Presets -/

theorem State.takeEntry_moves (scr : ScreenId) (e : PresetEntry) : Moves A s (s.takeEntry scr e).1 := by
  unfold State.takeEntry
  split
  · exact .refl
  · rename_i start
    split
    · exact .refl
    · rename_i hp
      split
      · exact .refl
      · rename_i hc
        have h := State.takeChain_moves (A := A) (s := s) State.reevaluate_moves scr start (by simpa using hp) hc
        split <;> (rename_i hh; rw [hh] at h; exact h)

theorem State.takeEntries_moves (p : Preset) (l : List ScreenId) (s : State) :
    Moves A s (State.takeEntries p l s).1 := by
  induction l generalizing s with
  | nil => exact .refl
  | cons scr l ih => exact (State.takeEntry_moves scr _).trans (ih _)

theorem State.presetFocus_moves (p : Preset) : Moves A s (s.presetFocus p).1 := by
  unfold State.presetFocus; split
  · exact .refl
  · exact State.requestFocus_moves _ _ _ (by simp)

theorem State.applyWritten_moves (hA : .preset ∈ A) (n : PresetId) (p : Preset) : Moves A s (s.applyWritten n p).1 := by
  refine (Move.lastPreset s (some n) hA).to.trans ((State.takeEntries_moves p allScreens _).trans
    ((State.presetFocus_moves p).trans ?_))
  exact .single (.notify _ _)

theorem State.applyPreset_moves (hA : .preset ∈ A) {n : PresetId} {o : PresetOutcome}
    (h : s.applyPreset n = some (t, o)) : Moves A s t := by
  unfold State.applyPreset at h
  rw [Option.map_eq_some_iff] at h
  obtain ⟨p, -, hp⟩ := h
  have := State.applyWritten_moves (A := A) (s := s) hA n p
  rw [hp] at this
  exact this

/-! ## Hotkeys -/

theorem State.routeMake_moves (p : DeskPortId) (u : Byte) : Moves A s (s.routeMake p u) := by
  unfold State.routeMake
  dsimp only
  split
  · exact .refl
  · exact (State.createEntry_moves p u _).trans (moves_foldl (State.inputWake_moves State.reevaluate_moves) _ _)

theorem State.route_moves (s : State) (e : KeyEvent) : Moves A s (s.route e) := by
  unfold State.route; split
  · exact State.routeMake_moves _ _
  · exact State.routeBreak_moves _ _

theorem State.releaseHold_moves (hA : .keys ∈ A) : Moves A s s.releaseHold :=
  (Move.keysIdle s hA).to.trans (moves_foldl State.route_moves _ _)

theorem State.discardHold_moves (hA : .keys ∈ A) : Moves A s s.discardHold := .single (.keysIdle s hA)

theorem State.selectComputer_moves (c : Comp) : Moves A s (s.selectComputer c).1 :=
  State.requestFocus_moves _ _ _ (by simp)

theorem State.selectFound_moves (c : Option Comp) : Moves A s (s.selectFound c).1 := by
  unfold State.selectFound; split
  · exact State.selectComputer_moves _
  · exact .refl

theorem State.wakeCommand_moves (c : Comp) : Moves A s (s.wakeCommand c).1 := by
  unfold State.wakeCommand; split
  · exact .refl
  all_goals exact State.wake_moves State.reevaluate_moves _ _

theorem State.presetCommand_moves (hA : .preset ∈ A) (n : PresetId) : Moves A s (s.presetCommand n).1 := by
  unfold State.presetCommand; split
  · rename_i h; exact State.applyPreset_moves hA h
  · exact .refl

theorem State.runCommand_moves (hl : .lock ∈ A) (hw : .preset ∈ A) (command : Command) (argument : Byte) :
    Moves A s (s.runCommand command argument).1 := by
  unfold State.runCommand
  split
  · exact State.selectComputer_moves _
  · exact State.selectFound_moves _
  · exact State.selectFound_moves _
  · exact State.presetCommand_moves hw _
  · split
    · exact State.presetCommand_moves hw _
    · exact .refl
  · split
    · rename_i h; exact State.askFlip_moves State.reevaluate_moves _ h
    · exact .refl
  · exact State.setHard_moves hl
  · exact State.clearHard_moves hl
  · dsimp only
    split
    · exact State.clearHard_moves hl
    · exact State.setHard_moves hl
  · exact State.wakeCommand_moves _
  · exact State.wakeCommand_moves _
  · split
    · exact State.startSleep_moves
    · exact .refl
  · exact .refl

theorem State.fire_moves (hl : .lock ∈ A) (hw : .preset ∈ A) (i : Fin 24) (command : Command) (argument : Byte) :
    Moves A s (s.fire i command argument) :=
  (State.runCommand_moves hl hw command argument).trans (.single (.notify _ _))

theorem State.holdEvent_moves (hk : .keys ∈ A) (e : KeyEvent) (next : Sequencer) (hn : next ≠ .idle) :
    Moves A s (s.holdEvent e next) := by
  unfold State.holdEvent; split
  · rename_i h; exact .single (.keysHold s e next hk h hn)
  · exact (State.releaseHold_moves hk).trans (State.route_moves _ _)

theorem State.makeInIdle_moves (hk : .keys ∈ A) (hl : .lock ∈ A) (hw : .preset ∈ A) (p : DeskPortId) (u : Byte) :
    Moves A s (s.makeInIdle p u) := by
  unfold State.makeInIdle; split
  · exact State.holdEvent_moves hk _ _ (by simp)
  · split
    · dsimp only
      split
      · exact (Move.swallow s p u hk).to.trans (State.fire_moves hl hw _ _ _)
      · exact State.holdEvent_moves hk _ _ (by simp)
    · exact State.routeMake_moves _ _

theorem State.makeInArmed_moves (hk : .keys ∈ A) (hl : .lock ∈ A) (hw : .preset ∈ A) (d : Time) (p : DeskPortId) (u : Byte) :
    Moves A s (s.makeInArmed d p u) := by
  unfold State.makeInArmed; split
  · exact State.holdEvent_moves hk _ _ (by simp)
  · split
    · dsimp only
      exact (State.discardHold_moves hk).trans ((Move.swallow _ p u hk).to.trans (State.fire_moves hl hw _ _ _))
    · exact (State.releaseHold_moves hk).trans (State.routeMake_moves _ _)

theorem State.takeKeyMake_moves (hk : .keys ∈ A) (hl : .lock ∈ A) (hw : .preset ∈ A) (p : DeskPortId) (u : Byte) :
    Moves A s (s.takeKeyMake p u) := by
  unfold State.takeKeyMake; split
  · exact State.makeInIdle_moves hk hl hw p u
  · exact (State.releaseHold_moves hk).trans (State.routeMake_moves _ _)
  · split
    · exact State.holdEvent_moves hk _ _ (by simp)
    · exact (State.releaseHold_moves hk).trans (State.makeInIdle_moves hk hl hw p u)
  · exact State.makeInArmed_moves hk hl hw _ p u

theorem State.breakOfHeld_moves (hk : .keys ∈ A) (hl : .lock ∈ A) (hw : .preset ∈ A) (p : DeskPortId) (u : Byte) :
    Moves A s (s.breakOfHeld p u) := by
  unfold State.breakOfHeld
  dsimp only
  split
  · exact State.holdEvent_moves hk _ _ (by simp)
  · exact State.holdEvent_moves hk _ _ (by simp)
  · exact State.route_moves _ _
  · exact State.holdEvent_moves hk _ _ (by simp)
  · exact (State.discardHold_moves hk).trans (State.fire_moves hl hw _ _ _)
  · exact State.route_moves _ _

theorem State.takeKeyBreak_moves (hk : .keys ∈ A) (hl : .lock ∈ A) (hw : .preset ∈ A) (p : DeskPortId) (u : Byte) :
    Moves A s (s.takeKeyBreak p u) := by
  unfold State.takeKeyBreak; split
  · exact .single (.unswallow s _ hk)
  · split
    · exact State.breakOfHeld_moves hk hl hw p u
    · exact State.routeBreak_moves p u

theorem State.purgePort_moves (hk : .keys ∈ A) (p : DeskPortId) : Moves A s (s.purgePort p) :=
  (Move.unhold s (fun e => decide (e.port ≠ p)) hk).to.trans (.single (.unswallow _ (fun k => decide (k.1 ≠ p)) hk))

/-! ## The pointer -/

theorem State.reportToFocus_moves (w : Int) : Moves A s (s.reportToFocus w) := .single (.report _ _ _ _)

theorem State.motionReport_moves : Moves A s s.motionReport := by
  unfold State.motionReport; split
  · split
    · exact .single (.report _ _ _ _)
    · exact .refl
  · exact .refl

theorem State.takeMotion_moves (hd : .desk ∈ A) (dx dy : Int) : Moves A s (s.takeMotion dx dy) := by
  have h : Moves A s (s.setPtu (s.moved dx dy)) := .single (.moved s dx dy hd)
  unfold State.takeMotion
  dsimp only
  split
  · exact h.trans ((State.reevaluate_moves _).trans State.motionReport_moves)
  · exact h.trans (State.reevaluate_moves _)

theorem State.unmark_moves (p : DeskPortId) (b : Fin 5) : Moves A s (s.setPtu (s.ptu.unmark p b)) :=
  .single (.pointer _ _ rfl)

theorem State.clickToFocus_moves (p : DeskPortId) (b : Fin 5) : Moves A s (s.clickToFocus p b) := by
  unfold State.clickToFocus; split
  · exact (State.requestFocus_moves _ _ _ (by simp)).trans (State.unmark_moves _ _)
  · exact .refl

theorem State.takeButtonMake_moves (p : DeskPortId) (b : Fin 5) : Moves A s (s.takeButtonMake p b) := by
  have h : Moves A s ((((s.setPtu (s.ptu.unmark p b)).clickToFocus p b).reportToFocus 0).setSoft) :=
    (State.unmark_moves p b).trans ((State.clickToFocus_moves p b).trans
      ((State.reportToFocus_moves 0).trans State.setSoft_moves))
  unfold State.takeButtonMake
  dsimp only
  split
  · exact h.trans (State.inputWake_moves State.reevaluate_moves _ _)
  · exact h.trans (State.inputWake_moves State.reevaluate_moves _ _)
  · exact h

theorem State.afterButtonBreak_moves : Moves A s s.afterButtonBreak := by
  unfold State.afterButtonBreak; split
  · exact State.clearSoft_moves
  · exact .refl

theorem State.takeButtonBreak_moves (p : DeskPortId) (b : Fin 5) : Moves A s (s.takeButtonBreak p b) := by
  unfold State.takeButtonBreak; split
  · exact (State.unmark_moves p b).trans State.afterButtonBreak_moves
  · exact (State.reportToFocus_moves 0).trans State.afterButtonBreak_moves

theorem State.recentre_moves : Moves A s s.recentre := .single (.recentre s)

theorem State.keepPointer_moves : Moves A s s.keepPointer := by
  unfold State.keepPointer; split
  · exact .refl
  · exact State.recentre_moves

theorem State.keepPlaced_moves : Moves A s s.keepPlaced := State.keepPointer_moves.trans (State.reevaluate_moves _)

/-- R11: the path of an event from the DIU on. -/
theorem State.handOn_moves (hd : .desk ∈ A) (e : DeskEvent)
    (hk : ∀ p u, e = .keyMake p u ∨ e = .keyBreak p u → Tag.keys ∈ A ∧ Tag.lock ∈ A ∧ Tag.preset ∈ A) :
    Moves A s (s.handOn e) := by
  have hg := State.gate_moves (A := A) (s := s) e
  unfold State.handOn
  split
  · rename_i s' h
    rw [h] at hg
    refine hg.trans ?_
    unfold State.deliver
    split
    · obtain ⟨a, b, c⟩ := hk _ _ (.inl rfl)
      exact State.takeKeyMake_moves a b c _ _
    · obtain ⟨a, b, c⟩ := hk _ _ (.inr rfl)
      exact State.takeKeyBreak_moves a b c _ _
    · exact State.takeButtonMake_moves _ _
    · exact State.takeButtonBreak_moves _ _
    · exact State.takeMotion_moves hd _ _
    · exact State.reportToFocus_moves _
  · rename_i h
    rw [h] at hg
    exact hg

/-! ## The desk ports -/

theorem State.enterDesk_moves (hd : .desk ∈ A) (p : DeskPortId) (d : DeskPort) : Moves A s (s.enterDesk p d) :=
  (Move.deskPort s p d hd).to.trans (.single (.notify _ _))

section
variable (hd : Tag.desk ∈ A) (hk : Tag.keys ∈ A) (hl : Tag.lock ∈ A) (hw : Tag.preset ∈ A)
include hd hk hl hw

theorem State.keyBreak_moves (p : DeskPortId) (s : State) (u : Byte) : Moves A s (State.keyBreak p s u) :=
  (Move.deskPort s p _ hd).to.trans (State.handOn_moves hd _ fun _ _ _ => ⟨hk, hl, hw⟩)

theorem State.keyMake_moves (p : DeskPortId) (slots : List Byte) (s : State) (u : Byte) : Moves A s (State.keyMake p slots s u) :=
  (Move.deskPort s p _ hd).to.trans (State.handOn_moves hd _ fun _ _ _ => ⟨hk, hl, hw⟩)

theorem State.takeKeyReport_moves (p : DeskPortId) (mods : Byte) (keys : List Byte) (r : KeyReport) :
    Moves A s (s.takeKeyReport p mods keys r) :=
  (moves_foldl (State.keyBreak_moves hd hk hl hw p) _ _).trans
    ((moves_foldl (State.keyBreak_moves hd hk hl hw p) _ _).trans
      ((moves_foldl (State.keyMake_moves hd hk hl hw p _) _ _).trans
        ((moves_foldl (State.keyMake_moves hd hk hl hw p _) _ _).trans (.single (.deskPort _ p _ hd)))))
end

theorem State.buttonBreak_moves (hd : .desk ∈ A) (p : DeskPortId) (s : State) (b : Fin 5) :
    Moves A s (State.buttonBreak p s b) :=
  (Move.deskPort s p _ hd).to.trans (State.handOn_moves hd _ (by simp))

theorem State.buttonMake_moves (hd : .desk ∈ A) (p : DeskPortId) (s : State) (b : Fin 5) :
    Moves A s (State.buttonMake p s b) :=
  (Move.deskPort s p _ hd).to.trans (State.handOn_moves hd _ (by simp))

theorem State.takeMoveReport_moves (hd : .desk ∈ A) (p : DeskPortId) (b : Buttons) (r : MoveReport) :
    Moves A s (s.takeMoveReport p b r) := by
  unfold State.takeMoveReport
  dsimp only
  have h1 : Moves A s (if r.dx = 0 ∧ r.dy = 0 then s else s.handOn (.motion p r.dx r.dy)) := by
    split
    · exact .refl
    · exact State.handOn_moves hd _ (by simp)
  have h2 := h1.trans (moves_foldl (State.buttonBreak_moves hd p) (buttonList (b &&& ~~~ r.buttons)) _)
  have h3 := h2.trans (moves_foldl (State.buttonMake_moves hd p) (buttonList (r.buttons &&& ~~~ b)) _)
  split
  · exact h3
  · exact h3.trans (State.handOn_moves hd _ (by simp))

theorem State.attachDevice_moves (hd : .desk ∈ A) (p : DeskPortId) : Moves A s (s.attachDevice p) := by
  unfold State.attachDevice; split
  · exact State.enterDesk_moves hd _ _
  · exact .refl

theorem State.endEnumeration_moves (hd : .desk ∈ A) (p : DeskPortId) (o : Offers) : Moves A s (s.endEnumeration p o) := by
  unfold State.endEnumeration; split
  · exact State.enterDesk_moves hd _ _
  · exact .refl

theorem State.expireEnumeration_moves (hd : .desk ∈ A) (p : DeskPortId) : Moves A s (s.expireEnumeration p) := by
  unfold State.expireEnumeration; split
  · split
    · exact State.enterDesk_moves hd _ _
    · exact .refl
  · exact .refl

section
variable (hd : Tag.desk ∈ A) (hk : Tag.keys ∈ A) (hl : Tag.lock ∈ A) (hw : Tag.preset ∈ A)
include hd hk hl hw

theorem State.synthesiseBreaks_moves (p : DeskPortId) : Moves A s (s.synthesiseBreaks p) := by
  unfold State.synthesiseBreaks; split
  · exact (moves_foldl (State.keyBreak_moves hd hk hl hw p) _ _).trans (moves_foldl (State.keyBreak_moves hd hk hl hw p) _ _)
  · exact moves_foldl (State.buttonBreak_moves hd p) _ _
  · exact .refl

theorem State.detachDevice_moves (p : DeskPortId) : Moves A s (s.detachDevice p) := by
  unfold State.detachDevice; split
  · exact .refl
  · exact (State.synthesiseBreaks_moves hd hk hl hw p).trans ((State.enterDesk_moves hd _ _).trans (State.purgePort_moves hk p))

theorem State.keyboardReport_moves (p : DeskPortId) (bytes : List Byte) : Moves A s (s.keyboardReport p bytes) := by
  unfold State.keyboardReport; split
  · exact State.takeKeyReport_moves hd hk hl hw _ _ _ _
  · exact .refl
end

theorem State.pointerReport_moves (hd : .desk ∈ A) (p : DeskPortId) (bytes : List Byte) :
    Moves A s (s.pointerReport p bytes) := by
  unfold State.pointerReport; split
  · exact State.takeMoveReport_moves hd _ _ _
  · exact .refl

theorem State.expireTap_moves (hk : .keys ∈ A) : Moves A s s.expireTap := by
  unfold State.expireTap; split
  · split
    · exact State.releaseHold_moves hk
    · exact .refl
  · exact .refl

theorem State.expireCommand_moves (hk : .keys ∈ A) : Moves A s s.expireCommand := by
  unfold State.expireCommand; split
  · split
    · exact (State.discardHold_moves hk).trans (.single (.notify _ _))
    · exact .refl
  · exact .refl

theorem State.expireGuard_moves : Moves A s s.expireGuard := by
  unfold State.expireGuard; split
  · split
    · exact (Move.unguard s).to.trans (State.reevaluate_moves _)
    · exact .refl
  · exact .refl

theorem State.expireDwell_moves : Moves A s s.expireDwell := by
  unfold State.expireDwell; split
  · split
    · unfold State.takeGlide; split
      · exact State.requestFocus_moves _ _ _ (by simp)
      · exact .single (.unpend s)
      · exact .single (.unpend s)
    · exact .refl
  · exact .refl

/-! ## The computers' buses -/

theorem Computer.SamePort.of_eq {r r' : Computer} (hp : r'.port = r.port) (hk : r'.keySet = r.keySet)
    (hr : r'.remoteWake = r.remoteWake) (hq : r'.queue = r.queue) : r.SamePort r' :=
  ⟨hp, hk, fun _ => hr, fun h => by rw [hq]; exact h, fun _ h => by rw [hq]; exact h⟩

theorem State.answer_moves (hb : .bus ∈ A) (c : Comp) (a : BusAnswer) : Moves A s (s.answer c a) :=
  .single (.record s c _ (.inr hb) (.of_eq rfl rfl rfl rfl))

theorem State.setAddress_moves (hb : .bus ∈ A) (c : Comp) (a : BitVec 7) : Moves A s (s.setAddress c a) :=
  .single (.record s c _ (.inr hb) (.of_eq rfl rfl rfl rfl))

theorem State.portEvent_moves (c : Comp) (new : PortState) (hn : new ≠ .resuming) : Moves A s (s.portEvent c new) :=
  State.changePort_moves State.reevaluate_moves c new hn

theorem State.powerPresent_moves (c : Comp) : Moves A s (s.powerPresent c) := by
  unfold State.powerPresent; split
  · exact State.portEvent_moves _ _ (by simp)
  · exact .refl

theorem State.powerLost_moves (hb : .bus ∈ A) (c : Comp) : Moves A s (s.powerLost c) := by
  unfold State.powerLost; split
  · exact .refl
  · exact (State.setAddress_moves hb _ _).trans (State.portEvent_moves _ _ (by simp))

theorem State.resetBus_moves (hb : .bus ∈ A) (c : Comp) : Moves A s (s.resetBus c) := by
  unfold State.resetBus; split
  · exact .refl
  · exact (State.setAddress_moves hb _ _).trans (State.portEvent_moves _ _ (by simp))

theorem State.askDescriptor_moves (hb : .bus ∈ A) (c : Comp) (w : DescriptorKind) : Moves A s (s.askDescriptor c w) := by
  unfold State.askDescriptor; split
  · exact State.answer_moves hb _ _
  · split
    · exact State.answer_moves hb _ _
    · exact .refl
  · exact .refl

theorem State.assignAddress_moves (hb : .bus ∈ A) (c : Comp) (a : BitVec 7) : Moves A s (s.assignAddress c a) := by
  unfold State.assignAddress; split
  · exact State.setAddress_moves hb _ _
  · split
    · exact State.setAddress_moves hb _ _
    · exact .refl
  · exact .refl

theorem State.selectConfiguration1_moves (hb : .bus ∈ A) (c : Comp) : Moves A s (s.selectConfiguration1 c) := by
  unfold State.selectConfiguration1; split
  · exact (State.answer_moves hb _ _).trans (State.portEvent_moves _ _ (by simp))
  · exact State.answer_moves hb _ _
  · exact .refl

theorem State.selectConfiguration_moves (hb : .bus ∈ A) (c : Comp) (n : Byte) : Moves A s (s.selectConfiguration c n) := by
  unfold State.selectConfiguration; split
  · exact State.selectConfiguration1_moves hb c
  · split
    · exact State.answer_moves hb _ _
    · split
      · exact (State.answer_moves hb _ _).trans (State.portEvent_moves _ _ (by simp))
      · exact State.answer_moves hb _ _
    · exact .refl

theorem State.idleBus_moves (c : Comp) : Moves A s (s.idleBus c) := by
  unfold State.idleBus; split
  · exact State.portEvent_moves _ _ (by simp)
  · exact .refl

theorem State.resumeBus_moves (c : Comp) : Moves A s (s.resumeBus c) := by
  unfold State.resumeBus; split
  · exact State.portEvent_moves _ _ (by simp)
  · exact State.portEvent_moves _ _ (by simp)
  · exact .refl

theorem State.completeResume_moves (c : Comp) : Moves A s (s.completeResume c) := by
  unfold State.completeResume; split
  · exact State.portEvent_moves _ _ (by simp)
  · exact .refl

theorem State.permitWake_moves (hb : .bus ∈ A) (c : Comp) (b : Bool) : Moves A s (s.permitWake c b) := by
  unfold State.permitWake; split
  · rename_i h
    refine .single (.record s c _ (.inr hb) ⟨rfl, rfl, fun hh => ?_, fun h => h, fun _ h => h⟩)
    rw [h] at hh; cases hh
  · exact State.answer_moves hb _ _
  · exact .refl

theorem State.expireWake_moves (c : Comp) : Moves A s (s.expireWake c) := by
  unfold State.expireWake; split
  · split
    · exact (Move.timedOut s c).to.trans (State.portEvent_moves _ _ (by simp))
    · exact .refl
  · exact .refl

theorem youngest_eq {q older : List Entry} {e : Entry} (h : youngest q = some (older, e)) : q = older ++ [e] := by
  induction q generalizing older with
  | nil => simp [youngest] at h
  | cons a q ih =>
    cases q with
    | nil => simp [youngest] at h; obtain ⟨rfl, rfl⟩ := h; rfl
    | cons b q =>
      simp only [youngest, Option.map_eq_some_iff, Prod.exists] at h
      obtain ⟨o, y, h, h'⟩ := h
      cases h'
      rw [ih h]; rfl

theorem foldInto_length {q q' : List Entry} {p : PointerState} {w : Int} (h : foldInto q p w = some q') :
    q'.length = q.length := by
  unfold foldInto at h
  split at h
  · rename_i hy
    split at h
    · cases h
      rw [youngest_eq hy]; simp
    · cases h
  · cases h

theorem Computer.placePointer_same (r : Computer) (p : PointerState) (w : Int) (ha : r.port.accepting = true) :
    r.SamePort (r.placePointer p w) := by
  unfold Computer.placePointer
  split
  · rename_i q h
    exact ⟨rfl, rfl, fun _ => rfl, fun hq => by rw [← foldInto_length h] at hq; exact hq, fun hn => by rw [ha] at hn; cases hn⟩
  · split
    · rename_i h
      refine ⟨rfl, rfl, fun _ => rfl, fun _ => ?_, fun hn => by rw [ha] at hn; cases hn⟩
      simp only [Computer.hasRoom, decide_eq_true_eq] at h
      simp; omega
    · exact .of_eq rfl rfl rfl rfl

theorem Computer.SamePort.refl (r : Computer) : r.SamePort r := .of_eq rfl rfl rfl rfl

theorem Computer.takePointer_same (r : Computer) (p : PointerState) (w : Int) : r.SamePort (r.takePointer p w) := by
  unfold Computer.takePointer
  split
  · exact .refl r
  · rename_i h
    split
    · exact .refl r
    · exact r.placePointer_same p w (by simpa using h)

theorem Computer.SamePort.trans {a b c : Computer} (h : a.SamePort b) (k : b.SamePort c) : a.SamePort c :=
  ⟨k.port.trans h.port, k.keySet.trans h.keySet, fun hr => (k.remoteWake (by rw [h.port]; exact hr)).trans (h.remoteWake hr),
    fun hq => k.room (h.room hq), fun ha hq => k.closed (by rw [h.port]; exact ha) (h.closed ha hq)⟩

theorem Computer.payPointer_same (r : Computer) (ha : r.port.accepting = true) : r.SamePort r.payPointer := by
  unfold Computer.payPointer
  split
  · dsimp only
    have h : r.SamePort { r with owedPointer := false } := .of_eq rfl rfl rfl rfl
    split
    · exact h.trans (Computer.placePointer_same _ _ _ ha)
    · exact h
  · exact .refl r

theorem Computer.payOwed_same (r : Computer) (ha : r.port.accepting = true) (hr : r.hasRoom = true) :
    r.SamePort r.payOwed := by
  unfold Computer.payOwed
  split
  · dsimp only
    have h : r.SamePort { r with owedKeyboard := false } := .of_eq rfl rfl rfl rfl
    split
    · exact h.trans (Computer.payPointer_same _ ha)
    · refine ⟨rfl, rfl, fun _ => rfl, fun _ => ?_, fun hn => by rw [ha] at hn; cases hn⟩
      simp only [Computer.hasRoom, decide_eq_true_eq] at hr
      simp; omega
  · exact r.payPointer_same ha

theorem Computer.takePoll_same (r : Computer) (ack : Bool) : r.SamePort (r.takePoll ack) := by
  unfold Computer.takePoll
  split
  · rename_i h
    have ha : r.port.accepting = true := by rw [h]; rfl
    dsimp only
    have key : ∀ r' : Computer, r.SamePort r' →
        r.SamePort (if (r'.hasRoom && (r'.owedKeyboard || r'.owedPointer)) = true then r'.payOwed else r') := by
      intro r' hs
      split
      · rename_i hc
        rw [Bool.and_eq_true] at hc
        exact hs.trans (r'.payOwed_same (by rw [hs.port]; exact ha) hc.1)
      · exact hs
    apply key
    split
    · exact .of_eq rfl rfl rfl rfl
    · rename_i e rest hq
      refine ⟨rfl, rfl, fun _ => rfl, fun hl => ?_, fun hn => by rw [ha] at hn; cases hn⟩
      rw [hq] at hl
      cases ack <;> simp at hl ⊢ <;> omega
  · exact .refl r

/-! ## Heads, screens, panels -/

theorem State.reportSignal_moves (hb : .bus ∈ A) (h : HeadId) (size : Option (Nat × Nat)) :
    Moves A s (s.reportSignal h size) := by
  unfold State.reportSignal
  dsimp only
  split
  · exact .refl
  · have hm := (Move.signal s h size hb).to.trans (.single (.notify _ (.sourceChange h size)))
    split
    · exact hm
    · exact hm.trans (State.reevaluateScreens_moves State.reevaluate_moves)

theorem State.expireDesk_moves : Moves A s s.expireDesk := by
  unfold State.expireDesk; split
  · split
    · exact State.enterAsleep_moves State.reevaluate_moves _
    · exact .refl
  · exact .refl

theorem State.expireHold_moves (scr : ScreenId) : Moves A s (s.expireHold scr) := by
  unfold State.expireHold; split
  · split
    · exact State.enterStandby_moves State.reevaluate_moves _ _
    · exact .refl
  · exact .refl

theorem State.startScan_moves : Moves A s s.startScan := (Move.panels s _).to

theorem State.endProbe_moves (a : Fin 4) (ack : Bool) : Moves A s (s.endProbe a ack) := by
  have key : ∀ (p : Psc) (n : Notice) (b : Prop) [Decidable b],
      Moves A s (if b then (s.setPsc p).notify n else s.setPsc p).endTransaction := by
    intro p n b _
    refine (Move.panels s p).to.trans ?_
    split
    · exact (Move.notify _ _).to.trans State.endTransaction_moves
    · exact State.endTransaction_moves
  exact key _ _ _

theorem State.losePanel_moves (n : Nat) (w : Bool) : Moves A s (s.losePanel n w) := by
  unfold State.losePanel; split
  · exact (Move.panels s _).to.trans (.single (.notify _ _))
  · exact .refl

theorem State.press_moves (n : Nat) (b : Fin 8) : Moves A s (s.press n b) :=
  (State.requestFocus_moves _ _ _ (by simp)).trans (.single (.notify _ _))

theorem State.readButton_moves (n : Nat) (low : Byte) (s : State) (b : Fin 8) : Moves A s (State.readButton n low s b) := by
  have key : ∀ (p : Psc) (c : Bool), Moves A s (if c then (s.setPsc p).press n b else s.setPsc p) := by
    intro p c
    refine (Move.panels s p).to.trans ?_
    split
    · exact State.press_moves _ _
    · exact .refl
  unfold State.readButton; split
  · exact .refl
  · exact key _ _

theorem State.endRead_moves (n : Nat) (ack : Bool) (low : Byte) : Moves A s (s.endRead n ack low) := by
  unfold State.endRead
  dsimp only
  refine Relation.ReflTransGen.trans ?_ State.endTransaction_moves
  split
  · exact .refl
  · split
    · exact moves_foldl (State.readButton_moves n low) _ _
    · exact State.losePanel_moves _ _

theorem State.endWrite_moves (n : Nat) (p : Byte) (changed ack : Bool) : Moves A s (s.endWrite n p changed ack) := by
  unfold State.endWrite
  dsimp only
  refine Relation.ReflTransGen.trans ?_ State.endTransaction_moves
  split
  · exact .refl
  · split
    · exact .single (.panels s _)
    · exact State.losePanel_moves _ _

theorem State.pollTick_moves : Moves A s s.pollTick := by
  unfold State.pollTick; split
  · exact (Move.panels s _).to.trans State.startBus_moves
  · exact .refl

theorem State.blinkEdge_moves : Moves A s s.blinkEdge := by
  unfold State.blinkEdge; split
  · exact State.deriveLeds_moves
  · exact .refl

/-! ## What the link holds through everything but its own moves -/

/-- Only the link's own moves and full reset touch the inbound queue and the transaction. -/
theorem Move.inbound (h : Move A s t) (hl : .link ∉ A) (hr : .reset ∉ A) : t.clp.inbound = s.clp.inbound ∧ t.clp.spi = s.clp.spi := by
  have hn : ∀ (u : State) (n : Notice), (u.notify n).clp.inbound = u.clp.inbound ∧ (u.notify n).clp.spi = u.clp.spi := by
    intro u n
    simp only [State.notify_clp, Clp.queueNotice]
    split <;> exact ⟨rfl, rfl⟩
  have hp : ∀ (u : State) (c : Comp) (new : PortState),
      (u.portMove c new).clp.inbound = u.clp.inbound ∧ (u.portMove c new).clp.spi = u.clp.spi := by
    intro u c new
    have h1 : (u.enterPort c new).clp = u.clp := by
      unfold State.enterPort; dsimp only; split <;> rfl
    have h2 : ∀ (v : State) (e : WakeEnd), (v.endAttempt c e).clp.inbound = v.clp.inbound ∧
        (v.endAttempt c e).clp.spi = v.clp.spi := by
      intro v e
      unfold State.endAttempt; split
      · exact hn _ _
      · exact ⟨rfl, rfl⟩
    unfold State.portMove
    dsimp only
    split
    · rw [(h2 _ _).1, (h2 _ _).2, (hn _ _).1, (hn _ _).2, h1]; exact ⟨rfl, rfl⟩
    · rw [(hn _ _).1, (hn _ _).2, h1]; exact ⟨rfl, rfl⟩
  cases h
  case held l _ => obtain ⟨v, hv⟩ := s.setHeld_eq l; rw [hv]; exact ⟨rfl, rfl⟩
  case release f => obtain ⟨v, hv⟩ := s.releaseKeys_eq f; rw [hv]; exact ⟨rfl, rfl⟩
  case warp c => unfold State.warp; split <;> exact ⟨rfl, rfl⟩
  case place => unfold State.keepPointer; split <;> exact ⟨rfl, rfl⟩
  case notify n => exact hn s n
  case port c new _ _ => exact hp s c new
  case wake c a _ _ => exact hp _ c .resuming
  all_goals first | exact ⟨rfl, rfl⟩ | exact absurd ‹_› hl | exact absurd ‹_› hr

theorem Moves.inbound (h : Moves A s t) (hl : .link ∉ A) (hr : .reset ∉ A) : t.clp.inbound = s.clp.inbound ∧ t.clp.spi = s.clp.spi := by
  induction h with
  | refl => exact ⟨rfl, rfl⟩
  | tail _ hm ih =>
    have := hm.inbound hl hr
    exact ⟨this.1.trans ih.1, this.2.trans ih.2⟩

/-! ## The link -/

/-- R177: a request's execution is its owner's moves and then the reply, where the owner makes no move of the link. -/
theorem State.execute_moves {B : List Tag} (kind : Byte) (t : Time) (owner : List Byte → State → State × Reply)
    (ho : ∀ p s, Moves B s (owner p s).1) (hc : .clock ∈ A) (hl : .link ∈ A) (hB : ∀ x ∈ B, x ∈ A) (hnl : .link ∉ B)
    (hnr : .reset ∉ B) : Moves A s (s.execute kind t owner) := by
  have hclock := (Move.clock (A := A) s t hc).to
  unfold State.execute
  split
  · exact hclock
  · rename_i r rest h
    split
    · refine hclock.trans ?_
      unfold State.reply
      split
      · have hm := ho r.body (s.at t)
        refine (hm.mono hB).trans (.single (.reply _ r _ hl ?_))
        rw [(hm.inbound hnl hnr).1, h]; simp
      · refine .single (.reply _ r _ hl ?_)
        rw [h]; simp
    · exact hclock

theorem State.executeUnknown_moves (t : Time) (hc : .clock ∈ A) (hl : .link ∈ A) : Moves A s (s.executeUnknown t) := by
  have hclock := (Move.clock (A := A) s t hc).to
  unfold State.executeUnknown
  split
  · exact hclock
  · rename_i r rest h
    split
    · exact hclock
    · refine hclock.trans (.single (.reply _ r _ hl ?_))
      rw [h]; simp

/-! ## The requests -/

section
variable (hw : Tag.write ∈ A) (p : List Byte) (s : State)
include hw

theorem requestSetComputer_moves : Moves A s (requestSetComputer p s).1 := by
  unfold requestSetComputer
  split
  · exact .refl
  · split
    · exact .refl
    · dsimp only
      split
      · exact .single (.record s _ _ (.inl hw) (.of_eq rfl rfl rfl rfl))
      · exact .refl

theorem requestSetHead_moves : Moves A s (requestSetHead p s).1 := by
  unfold requestSetHead
  split
  · exact .refl
  · split
    · exact .refl
    · split
      · exact .refl
      · split
        · split
          · unfold State.writeHead
            dsimp only
            have h : ∀ heads, Moves A s (s.setLco { s.lco with heads := heads }) := fun heads => .single (.settings s _ hw rfl rfl)
            split
            · exact h _
            · exact (h _).trans ((State.reevaluate_moves _).trans (State.reevaluateScreens_moves State.reevaluate_moves))
          · exact .refl
        · exact .refl

omit hw in
/-- R125: a placement that passes the value checks is one that a screen may take. -/
theorem parsePlacement_placeable {p : List Byte} {scr : ScreenId} {pl : Placement} (h : parsePlacement p = .ok (scr, pl)) :
    pl.rect.Placeable := by
  unfold parsePlacement at h
  split at h
  · cases h
  · split at h
    · cases h
    · dsimp only at h
      split at h
      · split at h
        · rename_i hr
          cases h
          exact hr
        · cases h
      · cases h

theorem requestPlaceScreen_moves : Moves A s (requestPlaceScreen p s).1 := by
  unfold requestPlaceScreen
  split
  · exact State.keepPlaced_moves
  · rename_i hpl
    split
    · exact State.keepPlaced_moves
    · rename_i hr
      unfold State.placeScreen
      dsimp only
      have h := (Move.place s _ _ hw hr (parsePlacement_placeable hpl)).to.trans (State.reevaluate_moves _)
      split
      · exact h
      · exact h.trans (State.reevaluateScreen_moves State.reevaluate_moves _ _)

theorem requestSetPointer_moves : Moves A s (requestSetPointer p s).1 := by
  unfold requestSetPointer
  split
  · exact .refl
  · split
    · exact .refl
    · exact .single (.pointerSettings s _ _ _ hw)

theorem requestSetHotkeyTiming_moves (hk : .keys ∈ A) : Moves A s (requestSetHotkeyTiming p s).1 := by
  unfold requestSetHotkeyTiming
  split
  · exact .refl
  · split
    · exact .refl
    · unfold State.writeTiming
      dsimp only
      have h : ∀ l a b, Moves A s (s.setHks { s.hks with leader := l, tapWindow := a, commandWindow := b }) :=
        fun l a b => .single (.hotkeys s s.hks.table l a b hw)
      split
      · have key : ∀ u : State, Moves A u u.leaderNone := by
          intro u
          unfold State.leaderNone
          split
          · exact State.releaseHold_moves hk
          · exact State.releaseHold_moves hk
          · exact .refl
        exact (h _ _ _).trans (key _)
      · exact h _ _ _

theorem requestWriteHotkey_moves : Moves A s (requestWriteHotkey p s).1 := by
  unfold requestWriteHotkey
  split
  · exact .refl
  · exact .single (.hotkeys s _ _ _ _ hw)

theorem requestWriteRule_moves : Moves A s (requestWriteRule p s).1 := by
  unfold requestWriteRule
  split
  · exact .refl
  · exact .single (.rules s _ hw)

theorem requestSetBorderColours_moves : Moves A s (requestSetBorderColours p s).1 := by
  unfold requestSetBorderColours
  split
  · exact .refl
  · exact .single (.settings s _ hw rfl rfl)

theorem requestSetPowerTiming_moves : Moves A s (requestSetPowerTiming p s).1 := by
  unfold requestSetPowerTiming
  split
  · exact .refl
  · split
    · exact .refl
    · exact .single (.powerSettings s _ _ _ hw)

omit hw in
theorem mapM_length {α β : Type} (f : α → Option β) : ∀ (l : List α) (r : List β), l.mapM f = some r → r.length = l.length
  | [], r => by intro h; simp at h; subst h; rfl
  | a :: l, r => by
    intro h
    rw [List.mapM_cons] at h
    simp only [Option.bind_eq_bind, Option.pure_def, Option.bind_eq_some_iff] at h
    obtain ⟨b, -, r', h2, h3⟩ := h
    cases h3
    simp [mapM_length f l r' h2]

omit hw in
theorem borderOf_le {b : Byte} {n : Nat} (h : borderOf b = some n) : n ≤ 8 := by
  unfold borderOf at h
  split at h
  · cases h; assumption
  · cases h

omit hw in
/-- R128: a record that passes the checks of WRITE TILE is lawful. -/
theorem parseTile_lawful {p : List Byte} {r : TileId} {x : Tile} (h : parseTile p = .ok (r, x)) : x.Lawful := by
  unfold parseTile at h
  split at h
  · cases h
  · rename_i hlen
    split at h
    · cases h
    · dsimp only at h
      split at h
      · rename_i hw
        split at h
        · rename_i k hk
          cases h
          refine ⟨hw, ?_⟩
          unfold parseTileKind at hk
          split at hk
          · unfold parseSingle at hk
            split at hk
            · split at hk
              · rename_i view border _ hv hb
                cases hk
                have hb := borderOf_le hb
                unfold viewOf at hv
                split at hv
                · cases hv; exact hb
                · split at hv
                  · dsimp only at hv
                    split at hv
                    · rename_i hc; cases hv; exact ⟨hb, hc⟩
                    · cases hv
                  · cases hv
              · cases hk
            · cases hk
          · rename_i h0
            split at hk
            · rename_i h1
              unfold parseGrid at hk
              dsimp only at hk
              split at hk
              · rename_i hc
                split at hk
                · rename_i cells border hm hb
                  cases hk
                  refine ⟨borderOf_le hb, hc.1, hc.2.1, hc.2.2.1, hc.2.2.2.1, hc.2.2.2.2.1, hc.2.2.2.2.2, ?_⟩
                  rw [mapM_length _ _ _ hm, List.length_drop]
                  simp only [ne_eq, not_not] at hlen
                  unfold tileLength at hlen
                  rw [if_neg h0, if_pos h1] at hlen
                  have := Option.some.inj hlen
                  omega
                · cases hk
              · cases hk
            · cases hk; trivial
        · cases h
      · cases h

theorem requestWriteTile_moves : Moves A s (requestWriteTile p s).1 := by
  unfold requestWriteTile
  split
  · exact .refl
  · rename_i hp
    split
    · exact .refl
    · rename_i h
      exact .single (.tile s _ _ hw (by simpa using h) fun x hx => by cases hx; exact parseTile_lawful hp)

theorem requestFreeTile_moves : Moves A s (requestFreeTile p s).1 := by
  unfold requestFreeTile
  split
  · exact .refl
  · dsimp only
    split
    · exact .refl
    · rename_i h
      exact .single (.tile s _ none hw (by simpa using h) (by simp))

theorem requestWritePreset_moves : Moves A s (requestWritePreset p s).1 := by
  unfold requestWritePreset
  split
  · exact .refl
  · exact .single (.settings s _ hw rfl rfl)

omit hw in
theorem requestApplyPreset_moves (hp : .preset ∈ A) : Moves A s (requestApplyPreset p s).1 := by
  unfold requestApplyPreset
  split
  · exact .refl
  · split
    · exact .refl
    · split
      · exact .refl
      · rename_i h
        exact State.applyPreset_moves hp h
end

section
variable (p : List Byte) (s : State)

theorem requestSetChain_moves : Moves A s (requestSetChain p s).1 := by
  unfold requestSetChain
  split
  · exact .refl
  · split
    · exact .refl
    · split
      · exact .refl
      · unfold State.chainFor
        split
        · exact .refl
        · rename_i hp
          split
          · exact .refl
          · rename_i hc
            exact State.takeChain_moves State.reevaluate_moves _ _ (by simpa using hp) hc

theorem requestFlipTile_moves : Moves A s (requestFlipTile p s).1 := by
  unfold requestFlipTile
  split
  · exact .refl
  · dsimp only
    split
    · exact .refl
    · rename_i h
      exact State.askFlip_moves State.reevaluate_moves _ h

theorem requestSetFocus_moves (hl : .lock ∈ A) : Moves A s (requestSetFocus p s).1 := by
  unfold requestSetFocus
  split
  · exact .refl
  · split
    · exact .refl
    · split
      · exact .refl
      · unfold State.hostFocus
        split
        · exact .refl
        · exact .refl
        · exact State.requestFocus_moves _ _ _ fun _ => hl

theorem requestSetLock_moves (hl : .lock ∈ A) : Moves A s (requestSetLock p s).1 := by
  unfold requestSetLock
  split
  · exact .refl
  · split
    · exact .refl
    · unfold State.hostLock
      dsimp only
      split
      · exact State.setHard_moves hl
      · exact State.clearHard_moves hl

theorem requestWakeComputer_moves : Moves A s (requestWakeComputer p s).1 := by
  unfold requestWakeComputer
  split
  · exact .refl
  · split
    · exact .refl
    · unfold State.hostWake
      split
      · exact State.wake_moves State.reevaluate_moves _ _
      · split
        · exact State.wake_moves State.reevaluate_moves _ _
        · exact .refl
      · exact .refl

theorem requestDeskSleep_moves : Moves A s (requestDeskSleep p s).1 := by
  unfold requestDeskSleep
  split
  · exact .refl
  · split
    · exact State.startSleep_moves
    · exact .refl

theorem requestDeskWake_moves : Moves A s (requestDeskWake p s).1 := by
  unfold requestDeskWake
  split
  · exact .refl
  · unfold State.hostDeskWake
    dsimp only
    split
    · exact .refl
    · exact State.cancelSleep_moves _
    · rename_i h
      exact State.wakeDesk_moves _ h

theorem requestScanPanels_moves : Moves A s (requestScanPanels p s).1 := by
  unfold requestScanPanels
  split
  · exact .refl
  · split
    · exact .refl
    · exact State.startScan_moves
end

/-! ## RESTART -/

theorem State.restartPointer_moves : Moves A s s.restartPointer :=
  (moves_foldl State.releaseButtons_moves _ _).trans
    (State.markStale_moves.trans (State.recentre_moves.trans State.makeHitTest_moves))

theorem State.restartDesk_moves : Moves A s s.restartDesk := by
  have h : Moves A s (s.setWpc { s.wpc with desk := .awake, awaited := 0, deskDeadline := none }) :=
    .single (.deskSleep s _ ⟨rfl, rfl, rfl, rfl, rfl, fun _ => ⟨by simp, by simp⟩⟩)
  unfold State.restartDesk
  dsimp only
  split
  · exact h.trans (moves_foldl State.leaveForced_moves _ _)
  · exact h

theorem State.restartBlocks_moves (hk : .keys ∈ A) (hl : .lock ∈ A) : Moves A s s.restartBlocks := by
  unfold State.restartBlocks
  have h : Moves A s (s.setHks s.hks.restarted) := by
    refine (Move.keysIdle s hk).to.trans ?_
    have := Move.unswallow (A := A) (s.setHks s.hks.toIdle) (fun _ => false) hk
    have e : (s.hks.toIdle.swallowed.filter fun _ => false) = [] := by simp
    rw [State.setHks_hks, e] at this
    exact this.to
  refine h.trans ?_
  refine (Move.held _ [] (by simp)).to.trans ?_
  refine (Move.refocus _ hl (State.setHeld_held _ _)).to.trans ?_
  refine State.restartPointer_moves.trans ?_
  refine State.restartDesk_moves.trans ?_
  exact (State.reevaluateScreens_moves State.reevaluate_moves).trans State.deriveLeds_moves

theorem State.restart_moves (t : Time) (hc : .clock ∈ A) (hn : .link ∈ A) (hk : .keys ∈ A) (hl : .lock ∈ A) :
    Moves A s (s.restart t) := by
  have hclock := (Move.clock (A := A) s t hc).to
  unfold State.restart
  split
  · exact hclock
  · rename_i r rest h
    split
    · split
      · exact hclock.trans ((Move.restart _ r hn).to.trans (State.restartBlocks_moves hk hl))
      · refine hclock.trans (.single (.reply _ r _ hn ?_))
        rw [h]; simp
    · exact hclock

/-! ## Every command -/

/-- The kinds of move a command can make. -/
def tagsOf : Instr → List Tag
  | .fullReset _ => [.clock, .reset]
  | .deviceAttach .. => [.clock, .desk]
  | .enumerationEnd .. => [.clock, .desk]
  | .enumerationDeadlineExpiry .. => [.clock, .desk]
  | .deviceDetach .. => [.clock, .desk, .keys, .lock, .preset]
  | .keyboardReport .. => [.clock, .desk, .keys, .lock, .preset]
  | .pointerReport .. => [.clock, .desk]
  | .tapDeadlineExpiry _ => [.clock, .keys]
  | .commandDeadlineExpiry _ => [.clock, .keys]
  | .guardDeadlineExpiry _ => [.clock]
  | .dwellDeadlineExpiry _ => [.clock]
  | .busPowerPresent .. => [.clock]
  | .busPowerLost .. => [.clock, .bus]
  | .busReset .. => [.clock, .bus]
  | .descriptorRequest .. => [.clock, .bus]
  | .addressAssigned .. => [.clock, .bus]
  | .configuration1Selected .. => [.clock, .bus]
  | .configuration0Selected .. => [.clock, .bus]
  | .busIdle .. => [.clock]
  | .resumeByComputer .. => [.clock]
  | .resumeCompletes .. => [.clock]
  | .setRemoteWake .. => [.clock, .bus]
  | .clearRemoteWake .. => [.clock, .bus]
  | .poll .. => [.clock, .bus]
  | .wakeAttemptDeadlineExpiry .. => [.clock]
  | .deskDeadlineExpiry _ => [.clock]
  | .holdDeadlineExpiry .. => [.clock]
  | .signalAcquired .. => [.clock, .bus]
  | .modeChanged .. => [.clock, .bus]
  | .signalLost .. => [.clock, .bus]
  | .frameStart .. => [.clock]
  | .pollTick _ => [.clock]
  | .blinkEdge _ => [.clock]
  | .probeCompletes .. => [.clock]
  | .panelReadCompletes .. => [.clock]
  | .panelWriteCompletes .. => [.clock]
  | .spiSelect _ => [.clock, .link]
  | .put _ => [.clock, .link]
  | .putDeselect .. => [.clock, .link]
  | .take _ => [.clock, .link]
  | .takeDeselect .. => [.clock, .link]
  | .otherOpeningByte .. => [.clock, .link]
  | .unknownRequest _ => [.clock, .link]
  | .setComputer _ => [.clock, .link, .write]
  | .setHead _ => [.clock, .link, .write]
  | .placeScreen _ => [.clock, .link, .write]
  | .setPointer _ => [.clock, .link, .write]
  | .setHotkeyTiming _ => [.clock, .link, .write, .keys]
  | .writeHotkey _ => [.clock, .link, .write]
  | .writeRule _ => [.clock, .link, .write]
  | .setBorderColours _ => [.clock, .link, .write]
  | .setPowerTiming _ => [.clock, .link, .write]
  | .writeTile _ => [.clock, .link, .write]
  | .freeTile _ => [.clock, .link, .write]
  | .setChain _ => [.clock, .link]
  | .writePreset _ => [.clock, .link, .write]
  | .applyPreset _ => [.clock, .link, .preset]
  | .flipTile _ => [.clock, .link]
  | .setFocus _ => [.clock, .link, .lock]
  | .setLock _ => [.clock, .link, .lock]
  | .wakeComputer _ => [.clock, .link]
  | .deskSleep _ => [.clock, .link]
  | .deskWake _ => [.clock, .link]
  | .scanPanels _ => [.clock, .link]
  | .restart _ => [.clock, .link, .keys, .lock]
  | .readComputer _ => [.clock, .link]
  | .readScreen _ => [.clock, .link]
  | .readTile _ => [.clock, .link]
  | .readFocus _ => [.clock, .link]
  | .readHead _ => [.clock, .link]
  | .readDesk _ => [.clock, .link]
  | .readPanels _ => [.clock, .link]
  | .readEntry _ => [.clock, .link]

/-- Every command's next state is reached by moves, of the kinds its tags allow. -/
theorem exec_moves (i : Instr) (s t : State) (h : exec i s = .next t) : Moves (tagsOf i) s t := by
  have hat : ∀ {A : List Tag} {u v : State} (n : Time), Tag.clock ∈ A → Moves A (u.at n) v → Moves A u v :=
    fun n hc hm => (Move.clock _ n hc).to.trans hm
  have hB : ∀ {B A : List Tag}, (B.all fun x => A.contains x) = true → ∀ x ∈ B, x ∈ A := by
    intro B A hh x hx
    simpa using List.all_eq_true.mp hh x hx
  cases i <;> (injection h with h; subst h; simp only [tagsOf])
  case fullReset n => exact hat n (by decide) (.single (.fullReset _ (by decide)))
  case deviceAttach n p => exact hat n (by decide) (State.attachDevice_moves (by decide) p)
  case enumerationEnd n p o => exact hat n (by decide) (State.endEnumeration_moves (by decide) p o)
  case enumerationDeadlineExpiry n p => exact hat n (by decide) (State.expireEnumeration_moves (by decide) p)
  case deviceDetach n p =>
    exact hat n (by decide) (State.detachDevice_moves (by decide) (by decide) (by decide) (by decide) p)
  case keyboardReport n p b =>
    exact hat n (by decide) (State.keyboardReport_moves (by decide) (by decide) (by decide) (by decide) p b)
  case pointerReport n p b => exact hat n (by decide) (State.pointerReport_moves (by decide) p b)
  case tapDeadlineExpiry n => exact hat n (by decide) (State.expireTap_moves (by decide))
  case commandDeadlineExpiry n => exact hat n (by decide) (State.expireCommand_moves (by decide))
  case guardDeadlineExpiry n => exact hat n (by decide) State.expireGuard_moves
  case dwellDeadlineExpiry n => exact hat n (by decide) State.expireDwell_moves
  case busPowerPresent n c => exact hat n (by decide) (State.powerPresent_moves c)
  case busPowerLost n c => exact hat n (by decide) (State.powerLost_moves (by decide) c)
  case busReset n c => exact hat n (by decide) (State.resetBus_moves (by decide) c)
  case descriptorRequest n c w => exact hat n (by decide) (State.askDescriptor_moves (by decide) c w)
  case addressAssigned n c a => exact hat n (by decide) (State.assignAddress_moves (by decide) c a)
  case configuration1Selected n c => exact hat n (by decide) (State.selectConfiguration1_moves (by decide) c)
  case configuration0Selected n c k => exact hat n (by decide) (State.selectConfiguration_moves (by decide) c k)
  case busIdle n c => exact hat n (by decide) (State.idleBus_moves c)
  case resumeByComputer n c => exact hat n (by decide) (State.resumeBus_moves c)
  case resumeCompletes n c => exact hat n (by decide) (State.completeResume_moves c)
  case setRemoteWake n c => exact hat n (by decide) (State.permitWake_moves (by decide) c _)
  case clearRemoteWake n c => exact hat n (by decide) (State.permitWake_moves (by decide) c _)
  case poll n c a =>
    exact hat n (by decide) (.single (.record (s.at n) c _ (.inr (by decide)) (Computer.takePoll_same _ a)))
  case wakeAttemptDeadlineExpiry n c => exact hat n (by decide) (State.expireWake_moves c)
  case deskDeadlineExpiry n => exact hat n (by decide) State.expireDesk_moves
  case holdDeadlineExpiry n scr => exact hat n (by decide) (State.expireHold_moves scr)
  case signalAcquired n h w k => exact hat n (by decide) (State.reportSignal_moves (by decide) h _)
  case modeChanged n h w k => exact hat n (by decide) (State.reportSignal_moves (by decide) h _)
  case signalLost n h => exact hat n (by decide) (State.reportSignal_moves (by decide) h _)
  case frameStart n scr => exact hat n (by decide) (State.frameStart_moves State.reevaluate_moves scr)
  case pollTick n => exact hat n (by decide) State.pollTick_moves
  case blinkEdge n => exact hat n (by decide) State.blinkEdge_moves
  case probeCompletes n a =>
    split
    · exact hat n (by decide) (State.endProbe_moves _ _)
    · exact hat n (by decide) State.endTransaction_moves
    · exact hat n (by decide) .refl
  case panelReadCompletes n a l k =>
    split
    · exact hat n (by decide) (State.endRead_moves _ _ _)
    · exact hat n (by decide) .refl
  case panelWriteCompletes n a =>
    split
    · exact hat n (by decide) (State.endWrite_moves _ _ _ _)
    · exact hat n (by decide) .refl
  case spiSelect n => exact hat n (by decide) (.single (.select (s.at n) (by decide)))
  case put n => exact hat n (by decide) (.single (.openPut (s.at n) (by decide)))
  case putDeselect n b => exact hat n (by decide) (.single (.closePut (s.at n) b (by decide)))
  case take n => exact hat n (by decide) (.single (.openTake (s.at n) (by decide)))
  case takeDeselect n k => exact hat n (by decide) (.single (.closeTake (s.at n) k (by decide)))
  case otherOpeningByte n b => exact hat n (by decide) (.single (.openOther (s.at n) b (by decide)))
  case unknownRequest n => exact State.executeUnknown_moves n (by decide) (by decide)
  case restart n => exact State.restart_moves n (by decide) (by decide) (by decide) (by decide)
  case setComputer n =>
    exact State.execute_moves (B := [.write]) _ n _ (requestSetComputer_moves (by decide)) (by decide) (by decide)
      (hB (by decide)) (by decide) (by decide)
  case setHead n =>
    exact State.execute_moves (B := [.write]) _ n _ (requestSetHead_moves (by decide)) (by decide) (by decide)
      (hB (by decide)) (by decide) (by decide)
  case placeScreen n =>
    exact State.execute_moves (B := [.write]) _ n _ (requestPlaceScreen_moves (by decide)) (by decide) (by decide)
      (hB (by decide)) (by decide) (by decide)
  case setPointer n =>
    exact State.execute_moves (B := [.write]) _ n _ (requestSetPointer_moves (by decide)) (by decide) (by decide)
      (hB (by decide)) (by decide) (by decide)
  case setHotkeyTiming n =>
    exact State.execute_moves (B := [.write, .keys]) _ n _ (fun p u => requestSetHotkeyTiming_moves (by decide) p u (by decide))
      (by decide) (by decide) (hB (by decide)) (by decide) (by decide)
  case writeHotkey n =>
    exact State.execute_moves (B := [.write]) _ n _ (requestWriteHotkey_moves (by decide)) (by decide) (by decide)
      (hB (by decide)) (by decide) (by decide)
  case writeRule n =>
    exact State.execute_moves (B := [.write]) _ n _ (requestWriteRule_moves (by decide)) (by decide) (by decide)
      (hB (by decide)) (by decide) (by decide)
  case setBorderColours n =>
    exact State.execute_moves (B := [.write]) _ n _ (requestSetBorderColours_moves (by decide)) (by decide) (by decide)
      (hB (by decide)) (by decide) (by decide)
  case setPowerTiming n =>
    exact State.execute_moves (B := [.write]) _ n _ (requestSetPowerTiming_moves (by decide)) (by decide) (by decide)
      (hB (by decide)) (by decide) (by decide)
  case writeTile n =>
    exact State.execute_moves (B := [.write]) _ n _ (requestWriteTile_moves (by decide)) (by decide) (by decide)
      (hB (by decide)) (by decide) (by decide)
  case freeTile n =>
    exact State.execute_moves (B := [.write]) _ n _ (requestFreeTile_moves (by decide)) (by decide) (by decide)
      (hB (by decide)) (by decide) (by decide)
  case writePreset n =>
    exact State.execute_moves (B := [.write]) _ n _ (requestWritePreset_moves (by decide)) (by decide) (by decide)
      (hB (by decide)) (by decide) (by decide)
  case applyPreset n =>
    exact State.execute_moves (B := [.preset]) _ n _ (fun p s => requestApplyPreset_moves p s (by decide)) (by decide) (by decide)
      (hB (by decide)) (by decide) (by decide)
  case setChain n =>
    exact State.execute_moves (B := []) _ n _ requestSetChain_moves (by decide) (by decide)
      (hB (by decide)) (by decide) (by decide)
  case flipTile n =>
    exact State.execute_moves (B := []) _ n _ requestFlipTile_moves (by decide) (by decide)
      (hB (by decide)) (by decide) (by decide)
  case setFocus n =>
    exact State.execute_moves (B := [.lock]) _ n _ (fun p u => requestSetFocus_moves p u (by decide)) (by decide) (by decide)
      (hB (by decide)) (by decide) (by decide)
  case setLock n =>
    exact State.execute_moves (B := [.lock]) _ n _ (fun p u => requestSetLock_moves p u (by decide)) (by decide) (by decide)
      (hB (by decide)) (by decide) (by decide)
  case wakeComputer n =>
    exact State.execute_moves (B := []) _ n _ requestWakeComputer_moves (by decide) (by decide)
      (hB (by decide)) (by decide) (by decide)
  case deskSleep n =>
    exact State.execute_moves (B := []) _ n _ requestDeskSleep_moves (by decide) (by decide)
      (hB (by decide)) (by decide) (by decide)
  case deskWake n =>
    exact State.execute_moves (B := []) _ n _ requestDeskWake_moves (by decide) (by decide)
      (hB (by decide)) (by decide) (by decide)
  case scanPanels n =>
    exact State.execute_moves (B := []) _ n _ requestScanPanels_moves (by decide) (by decide)
      (hB (by decide)) (by decide) (by decide)
  all_goals
    rename_i n
    exact State.execute_moves (B := []) _ n _ (fun _ _ => .refl) (by decide) (by decide)
      (hB (by decide)) (by decide) (by decide)

end Sys2Proof.Machine
end

