-- ==== Sys2Proof/Laws/Records.lean ====
section
/-! SUPPORT. Records.lean: a law that every move keeps holds after every command; what the shared operations make of the
computers' records, the key sets and the port states, law by law. -/

namespace Sys2Proof.Machine

variable {A : List Tag} {s t : State}

theorem enterPort_eq (c : Comp) (new : PortState) (s : State) : s.enterPort c new =
    { s with
      cps := s.cps.set c ((s.comp c).enter new)
      rtf := (if (s.comp c).port.accepting && !new.accepting then { s.rtf with held := s.rtf.held.map (HeldKey.without c) }
        else s.rtf) } := by
  unfold State.enterPort; dsimp only
  split <;> rfl

theorem set_none_of (w : Vector (Option WakeAttempt) 8) (c : Comp) (h : w[c] = none) : w.set c none = w := by
  apply Vector.ext
  intro i hi
  by_cases hc : c.val = i
  · subst hc; simpa using h.symm
  · simp [hc]

theorem portMove_eq (c : Comp) (new : PortState) (s : State) : ∃ clp, s.portMove c new =
    { s.enterPort c new with
      wpc := { s.wpc with wakes := if (s.comp c).port = .resuming then s.wpc.wakes.set c none else s.wpc.wakes }
      clp := clp } := by
  rw [enterPort_eq]
  unfold State.portMove State.endAttempt
  rw [enterPort_eq]
  dsimp only
  split
  · split
    · exact ⟨_, rfl⟩
    · rename_i h
      rw [set_none_of]
      · exact ⟨_, rfl⟩
      · exact h
  · exact ⟨_, rfl⟩

theorem portMove_fcu (c : Comp) (new : PortState) : (s.portMove c new).fcu = s.fcu := by
  obtain ⟨k, h⟩ := portMove_eq c new s
  rw [h, enterPort_eq]

/-- A law that every move keeps is kept by every command. -/
theorem exec_keeps (P : State → Prop) (hm : ∀ (A : List Tag) (s t : State), Move A s t → P s → P t) (c : Instr) (s t : State)
    (h : exec c s = .next t) (hs : P s) : P t := by
  have := exec_moves c s t h
  clear h
  induction this with
  | refl => exact hs
  | tail _ hmv ih => exact hm _ _ _ hmv ih

/-- R48, R50: what the recomputation of its key set makes of a computer's record. -/
def Computer.refreshed (held : List HeldKey) (c : Comp) (r : Computer) : Computer :=
  let keys := nextKeySet held c r.keySet
  if keys = r.keySet then r else ({ r with keySet := keys }).takeSnapshot (snapshotOf keys)

theorem State.setComp_self (c : Comp) : s.setComp c (s.comp c) = s := by
  have : s.cps.set c (s.comp c) = s.cps := by simp [State.comp]
  unfold State.setComp; rw [this]

theorem State.refreshKeys_setComp (c : Comp) : s.refreshKeys c = s.setComp c ((s.comp c).refreshed s.rtf.held c) := by
  unfold State.refreshKeys Computer.refreshed
  dsimp only
  split
  · exact State.setComp_self c |>.symm
  · rfl

theorem State.comp_refreshKeys (c d : Comp) :
    (s.refreshKeys c).comp d = if d = c then (s.comp c).refreshed s.rtf.held c else s.comp d := by
  rw [State.refreshKeys_setComp, State.comp_setComp]

theorem State.comp_foldl_refreshKeys (cs : List Comp) (hn : cs.Nodup) (s : State) (d : Comp) :
    (cs.foldl State.refreshKeys s).comp d = if d ∈ cs then (s.comp d).refreshed s.rtf.held d else s.comp d := by
  induction cs generalizing s with
  | nil => simp
  | cons c cs ih =>
    rw [List.foldl_cons, ih (List.nodup_cons.mp hn).2, State.comp_refreshKeys]
    rw [show (s.refreshKeys c).rtf = s.rtf by rw [State.refreshKeys_setComp]; rfl]
    by_cases hd : d = c
    · subst hd
      simp [(List.nodup_cons.mp hn).1]
    · simp [hd]

/-- R48, R50: after a change of the held key table each computer's key set follows it. -/
theorem State.comp_setHeld (l : List HeldKey) (d : Comp) : (s.setHeld l).comp d = (s.comp d).refreshed l d := by
  unfold State.setHeld
  rw [State.comp_foldl_refreshKeys allComps (by decide)]
  rw [if_pos (by revert d; decide)]
  rfl

theorem State.comp_releaseKeys (f d : Comp) : (s.releaseKeys f).comp d =
    if d = f then (s.comp f).refreshed (s.rtf.held.map (fun k => if k.focusMember = some f then { k with focusMember := none } else k)) f
    else s.comp d := by
  unfold State.releaseKeys
  rw [State.comp_refreshKeys]
  rfl

theorem Computer.takeSnapshot_frame (r : Computer) (sn : Snapshot) : ∃ q l o m,
    r.takeSnapshot sn = { r with queue := q, lastSnapshot := l, owedKeyboard := o, merge := m } ∧
    (r.queue.length ≤ 16 → q.length ≤ 16) ∧ (r.port.accepting = false → r.takeSnapshot sn = r) := by
  unfold Computer.takeSnapshot
  split
  · exact ⟨_, _, _, _, rfl, id, fun _ => rfl⟩
  · rename_i ha
    split
    · exact ⟨_, _, _, _, rfl, id, fun _ => rfl⟩
    · split
      · rename_i h
        simp [Computer.hasRoom] at h
        exact ⟨_, _, _, _, rfl, fun _ => by simp; omega, fun h => by simp [h] at ha⟩
      · exact ⟨_, _, _, _, rfl, id, fun h => by simp [h] at ha⟩

theorem Computer.refreshed_frame (held : List HeldKey) (c : Comp) (r : Computer) : ∃ q l o m,
    r.refreshed held c = { r with keySet := nextKeySet held c r.keySet, queue := q, lastSnapshot := l, owedKeyboard := o, merge := m } ∧
    (r.queue.length ≤ 16 → q.length ≤ 16) ∧ (r.port.accepting = false → q = r.queue) := by
  unfold Computer.refreshed
  dsimp only
  split
  · rename_i h
    exact ⟨_, _, _, _, by rw [h], id, fun _ => rfl⟩
  · obtain ⟨q, l, o, m, h1, h2, h3⟩ := Computer.takeSnapshot_frame { r with keySet := nextKeySet held c r.keySet }
      (snapshotOf (nextKeySet held c r.keySet))
    refine ⟨q, l, o, m, h1, h2, fun ha => ?_⟩
    have := h3 ha
    rw [h1] at this
    exact congrArg Computer.queue this

theorem heldUsages_mem (held : List HeldKey) (c : Comp) (u : Byte) :
    u ∈ heldUsages held c ↔ ∃ k ∈ held, k.usage = u ∧ k.names c = true := by
  unfold heldUsages
  simp only [List.mem_eraseDups, List.mem_map, List.mem_filter]
  constructor
  · rintro ⟨k, ⟨h1, h2⟩, h3⟩; exact ⟨k, h1, h3, h2⟩
  · rintro ⟨k, h1, h3, h2⟩; exact ⟨k, ⟨h1, h2⟩, h3⟩

theorem nextKeySet_mem (held : List HeldKey) (c : Comp) (old : List Byte) (u : Byte) :
    u ∈ nextKeySet held c old ↔ ∃ k ∈ held, k.usage = u ∧ k.names c = true := by
  rw [← heldUsages_mem]
  unfold nextKeySet
  dsimp only
  simp only [List.mem_append, List.mem_filter, List.contains_iff_mem, Bool.not_eq_true']
  by_cases h : u ∈ old <;> simp [h]

theorem eraseDups_nodup (l : List Byte) : l.eraseDups.Nodup := by
  induction h : l.length using Nat.strong_induction_on generalizing l with
  | _ n ih =>
    cases l with
    | nil => simp
    | cons a l =>
      rw [List.eraseDups_cons, List.nodup_cons]
      refine ⟨by simp, ih _ ?_ _ rfl⟩
      have := List.length_filter_le (fun b => !b == a) l
      simp at h
      omega

theorem nextKeySet_nodup (held : List HeldKey) (c : Comp) (old : List Byte) (h : old.Nodup) : (nextKeySet held c old).Nodup := by
  unfold nextKeySet
  dsimp only
  rw [List.nodup_append]
  refine ⟨h.filter _, ?_, ?_⟩
  · unfold heldUsages; exact (eraseDups_nodup _).filter _
  · intro a ha b hb e
    subst e
    simp at ha hb
    exact hb.2 ha.1

theorem link_notify (c : Clp) (n : Notice) (h : c.LinkLaw) : (c.queueNotice n).LinkLaw := by
  unfold Clp.queueNotice Clp.LinkLaw at *
  split
  · simp [Clp.places] at *; omega
  · exact h

theorem takeSystem_same (r : Computer) (code : SystemCode) : r.SamePort (r.takeSystem code).1 := by
  unfold Computer.takeSystem
  split
  · exact .refl r
  · rename_i ha
    split
    · rename_i h
      simp only [Computer.hasRoom, decide_eq_true_eq] at h
      exact ⟨rfl, rfl, fun _ => rfl, fun _ => by simp; omega, fun hn => by simp [hn] at ha⟩
    · split
      · rename_i q hq
        have : ∀ q q' : List Entry, dropOldestPointer q = some q' → q'.length + 1 = q.length := by
          intro q
          induction q with
          | nil => intro q' h; simp [dropOldestPointer] at h
          | cons e q ih =>
            intro q' h
            unfold dropOldestPointer at h
            split at h
            · cases h
            · rename_i heq; cases heq; cases h; simp
            · rename_i heq; cases heq
              rw [Option.map_eq_some_iff] at h
              obtain ⟨a, h1, rfl⟩ := h
              simp [ih _ h1]
        have := this _ _ hq
        exact ⟨rfl, rfl, fun _ => rfl, fun hl => by simp; omega, fun hn => by simp [hn] at ha⟩
      · exact .refl r

def CompLaw (s : State) (c : Comp) : Prop := (s.comp c).queue.length ≤ 16 ∧
    ((s.comp c).port.accepting = false → (s.comp c).queue = [] ∧ (s.comp c).keySet = [])

theorem record_law (c : Comp) (r : Computer) (hr : (s.comp c).SamePort r) (hs : s.ReportQueueLaw) : (s.setComp c r).ReportQueueLaw := by
  refine ⟨fun d => ?_, fun k hk d hd => ?_⟩
  · rw [State.comp_setComp]
    split
    · rename_i h; subst h
      have := hs.1 d
      refine ⟨hr.room this.1, fun ha => ?_⟩
      rw [hr.port] at ha
      have := this.2 ha
      exact ⟨hr.closed ha this.1, by rw [hr.keySet]; exact this.2⟩
    · exact hs.1 d
  · rw [State.comp_setComp]
    have := hs.2 k hk d hd
    split
    · rename_i h; subst h; rw [hr.port]; exact this
    · exact this

theorem names_without (k : HeldKey) (c d : Comp) : (k.without c).names d = (k.names d && decide (d ≠ c)) := by
  have h : ∀ (c d : Fin 8) (x : BitVec 8), (x &&& ~~~ (1#8 <<< c.val)).getLsbD d.val = (x.getLsbD d.val && decide (d ≠ c)) := by
    intro c d x
    rw [BitVec.getLsbD_and]
    congr 1
    revert c d; decide
  unfold HeldKey.without HeldKey.names inSet
  dsimp only
  rw [h]
  by_cases hc : d = c
  · subst hc; simp
  · simp [hc]
    by_cases h1 : k.focusMember = some c
    · have : ¬ k.focusMember = some d := by rw [h1]; intro e; exact hc (Option.some.inj e).symm
      simp [h1]; exact fun e => absurd e.symm hc
    · simp [h1]

theorem enterPort_law (c : Comp) (new : PortState) (hs : s.ReportQueueLaw) : (s.enterPort c new).ReportQueueLaw := by
  have hcomp : ∀ d, (s.enterPort c new).comp d = if d = c then (s.comp c).enter new else s.comp d := by
    intro d; unfold State.enterPort; dsimp only
    split
    · show (State.comp (State.setComp _ _ _) _) = _
      rw [State.comp_setComp]
    · rw [State.comp_setComp]
  have hport : ((s.comp c).enter new).port = new := by
    unfold Computer.enter; split
    · rfl
    · split <;> rfl
  refine ⟨fun d => ?_, fun k hk d hd => ?_⟩
  · rw [hcomp]; split
    · rename_i h; subst h
      have := hs.1 d
      unfold Computer.enter
      split
      · rename_i h; exact ⟨this.1, fun ha => by simp [h] at ha⟩
      · split
        · simp [Computer.cleared]
        · rename_i h h'
          simp at h'
          exact ⟨this.1, fun _ => this.2 h'⟩
    · exact hs.1 d
  · rw [hcomp]
    unfold State.enterPort at hk
    dsimp only at hk
    split at hk
    · obtain ⟨k0, hk0, rfl⟩ := List.mem_map.mp hk
      rw [names_without] at hd
      simp at hd
      rw [if_neg hd.2]
      exact hs.2 k0 hk0 d hd.1
    · rename_i hc
      have := hs.2 k hk d hd
      split
      · rename_i h; subst h; rw [hport]; simp [this] at hc; exact hc
      · exact this

theorem comp_portMove (c d : Comp) (new : PortState) (s : State) :
    (s.portMove c new).comp d = if d = c then (s.comp c).enter new else s.comp d := by
  obtain ⟨k, h⟩ := portMove_eq c new s
  rw [h, enterPort_eq]
  exact State.comp_setComp s c d _

theorem portMove_held (c : Comp) (new : PortState) (s : State) :
    (s.portMove c new).rtf.held = if (s.comp c).port.accepting && !new.accepting then s.rtf.held.map (HeldKey.without c) else s.rtf.held := by
  obtain ⟨k, h⟩ := portMove_eq c new s
  rw [h, enterPort_eq]
  dsimp only
  split <;> rfl

end Sys2Proof.Machine
end

