-- ==== Sys2Proof/Laws/Layout.lean ====
section
/-! SUPPORT. Layout.lean: what keeps the chains, the canvas and the pointer lawful: reading a chain, replacing a screen or a tile
record, placing a screen, and moving the pointer. -/

namespace Sys2Proof.Machine

variable {A : List Tag} {s t : State}

theorem fixed_shape {x y : Tile} (h : x.fixed = y.fixed) : x.next = y.next ∧ x.rect = y.rect := by
  obtain ⟨n, r, k⟩ := x
  obtain ⟨n', r', k'⟩ := y
  unfold Tile.fixed at h
  cases k <;> cases k' <;> simp_all

/-- A chain reads the links of its records alone. -/
theorem ends_congr (l l' : Lco) (w h w' h' : Nat) : ∀ (n : Nat) (start : Option TileId), l.ChainEnds w h n start →
    (∀ r ∈ followChain l.tiles n start, l'.tiles[r].map Tile.fixed = l.tiles[r].map Tile.fixed) →
    (∀ r ∈ followChain l.tiles n start, ∀ tile, l.tiles[r] = some tile → tile.rect.within w' h' = true) →
    l'.ChainEnds w' h' n start ∧ followChain l'.tiles n start = followChain l.tiles n start
  | 0, none => fun _ _ _ => ⟨trivial, rfl⟩
  | 0, some _ => fun h => h.elim
  | _ + 1, none => fun _ _ _ => ⟨trivial, rfl⟩
  | n + 1, some r => by
    rintro ⟨tile, ht, hw, he⟩ h1 h2
    have hf : followChain l.tiles (n + 1) (some r) = r :: followChain l.tiles n tile.next := by
      conv_lhs => unfold followChain
      rw [ht]
    rw [hf] at h1 h2
    have hr := h1 r (by simp)
    rw [ht, Option.map_some] at hr
    obtain ⟨tile', h3, h4⟩ := Option.map_eq_some_iff.mp hr
    have hn : tile'.next = tile.next := (fixed_shape h4).1
    have hrect : tile'.rect = tile.rect := (fixed_shape h4).2
    obtain ⟨ih1, ih2⟩ := ends_congr l l' w h w' h' n tile.next he (fun q hq => h1 q (by simp [hq])) (fun q hq => h2 q (by simp [hq]))
    refine ⟨⟨tile', h3, by rw [hrect]; exact h2 r (by simp) tile ht, by rw [hn]; exact ih1⟩, ?_⟩
    rw [hf]
    have : followChain l'.tiles (n + 1) (some r) = r :: followChain l'.tiles n tile'.next := by
      conv_lhs => unfold followChain
      rw [h3]
    rw [this, hn, ih2]

theorem ends_within (l : Lco) (w h : Nat) : ∀ (n : Nat) (start : Option TileId), l.ChainEnds w h n start →
    ∀ r ∈ followChain l.tiles n start, ∀ tile, l.tiles[r] = some tile → tile.rect.within w h = true
  | 0, none => fun _ r hr => by cases hr
  | 0, some _ => fun h => h.elim
  | _ + 1, none => fun _ r hr => by cases hr
  | n + 1, some q => by
    rintro ⟨tile, ht, hw, he⟩ r hr tile' ht'
    unfold followChain at hr
    rw [ht] at hr
    rcases List.mem_cons.mp hr with rfl | hr
    · rw [ht] at ht'; cases ht'; exact hw
    · exact ends_within l w h n tile.next he r hr tile' ht'

/-- The law reads the starts, the sizes and the links. -/
theorem chain_same (l l' : Lco) (hl : l.ChainLaw) (h : l.SameLayout l') : l'.ChainLaw := by
  have key : ∀ (scr : ScreenId) (start : Option TileId), (l.screens[scr].active = start ∨ l.screens[scr].pending = some start) →
      l'.ChainEnds l.screens[scr].rect.w l.screens[scr].rect.h 32 start ∧ l'.chain start = l.chain start := by
    intro scr start hs
    have he := hl.1 scr start hs
    exact ends_congr l l' _ _ _ _ 32 start he (fun r _ => h.records r) (ends_within l _ _ 32 start he)
  have hact : ∀ scr : ScreenId, l'.activeChain scr = l.activeChain scr := by
    intro scr
    unfold Lco.activeChain
    rw [h.active]
    exact (key scr _ (.inl rfl)).2
  have hpend : ∀ scr : ScreenId, l'.pendingChain scr = l.pendingChain scr := by
    intro scr
    unfold Lco.pendingChain
    rw [h.pending]
    cases hp : l.screens[scr].pending with
    | none => rfl
    | some start => exact (key scr start (.inr hp)).2
  refine ⟨fun scr start hs => ?_, fun r scr other h1 h2 => ?_⟩
  · rw [h.active, h.pending] at hs
    rw [h.rect]
    exact (key scr start hs).1
  · unfold Lco.inChains at h1 h2
    rw [hact, hpend] at h1 h2
    exact hl.2 r scr other h1 h2

/-- R131: a walk that succeeds reaches END, over records that lie within the screen and in no other screen's chains. -/
theorem walk_ends (l : Lco) (scr : ScreenId) : ∀ (n : Nat) (start : Option TileId), l.walk scr n start = none →
    l.ChainEnds l.screens[scr].rect.w l.screens[scr].rect.h n start ∧
    ∀ r ∈ followChain l.tiles n start, ∀ other : ScreenId, other ≠ scr → l.inChains other r = false
  | 0, none => fun _ => ⟨trivial, fun r hr => by cases hr⟩
  | 0, some _ => fun h => by simp [Lco.walk] at h
  | _ + 1, none => fun _ => ⟨trivial, fun r hr => by cases hr⟩
  | n + 1, some q => by
    intro h
    unfold Lco.walk at h
    split at h
    · cases h
    · rename_i tile ht
      split at h
      · cases h
      · rename_i ho
        split at h
        · cases h
        · rename_i hw
          obtain ⟨h1, h2⟩ := walk_ends l scr n tile.next h
          refine ⟨⟨tile, ht, by simpa using hw, h1⟩, ?_⟩
          intro r hr other hne
          unfold followChain at hr
          rw [ht] at hr
          rcases List.mem_cons.mp hr with rfl | hr
          · have hall : ∀ o : ScreenId, o ∈ allScreens := by decide
            by_contra hc
            apply ho
            rw [List.any_eq_true]
            exact ⟨other, hall other, by simp at hc; simp [hne, hc]⟩
          · exact h2 r hr other hne

theorem setScreen_get (l : Lco) (scr o : ScreenId) (x : Screen) : (l.setScreen scr x).screens[o] = if o = scr then x else l.screens[o] := by
  by_cases h : o = scr
  · subst h; simp [Lco.setScreen]
  · have h' : scr.val ≠ o.val := fun e => h (Fin.ext e.symm)
    simp [Lco.setScreen, h, h']

/-- The chains of the other screens do not change with a screen's record. -/
theorem setScreen_chains (l : Lco) (scr o : ScreenId) (x : Screen) (h : o ≠ scr) :
    (l.setScreen scr x).activeChain o = l.activeChain o ∧ (l.setScreen scr x).pendingChain o = l.pendingChain o := by
  unfold Lco.activeChain Lco.pendingChain
  rw [setScreen_get, if_neg h]
  exact ⟨rfl, rfl⟩

theorem setScreen_inChains (l : Lco) (scr o : ScreenId) (x : Screen) (r : TileId) (h : o ≠ scr) :
    (l.setScreen scr x).inChains o r = l.inChains o r := by
  unfold Lco.inChains
  rw [(setScreen_chains l scr o x h).1, (setScreen_chains l scr o x h).2]

theorem ends_setScreen (l : Lco) (scr : ScreenId) (x : Screen) (w h n : Nat) (start : Option TileId) :
    (l.setScreen scr x).ChainEnds w h n start ↔ l.ChainEnds w h n start := by
  induction n generalizing start with
  | zero => cases start <;> exact Iff.rfl
  | succ n ih =>
    cases start with
    | none => exact Iff.rfl
    | some r =>
      unfold Lco.ChainEnds
      constructor
      · rintro ⟨tile, a, b, c⟩; exact ⟨tile, a, b, (ih _).mp c⟩
      · rintro ⟨tile, a, b, c⟩; exact ⟨tile, a, b, (ih _).mpr c⟩

/-- One screen's record changed: the law holds where its new chains end within its size and are in no other screen's. -/
theorem chain_setScreen (l : Lco) (scr : ScreenId) (x : Screen) (hl : l.ChainLaw)
    (he : ∀ start, (x.active = start ∨ x.pending = some start) → l.ChainEnds x.rect.w x.rect.h 32 start)
    (ho : ∀ r, (l.setScreen scr x).inChains scr r = true → ∀ other : ScreenId, other ≠ scr → l.inChains other r = false) :
    (l.setScreen scr x).ChainLaw := by
  refine ⟨fun o start hs => ?_, fun r o o' h1 h2 => ?_⟩
  · rw [setScreen_get] at hs ⊢
    rw [ends_setScreen]
    split at hs
    · rename_i h; rw [if_pos h]; exact he start hs
    · rename_i h; rw [if_neg h]; exact hl.1 o start hs
  · by_cases ho1 : o = scr
    · by_cases ho2 : o' = scr
      · rw [ho1, ho2]
      · subst ho1
        rw [setScreen_inChains _ _ _ _ _ ho2, ho r h1 o' ho2] at h2
        cases h2
    · by_cases ho2 : o' = scr
      · subst ho2
        rw [setScreen_inChains _ _ _ _ _ ho1, ho r h2 o ho1] at h1
        cases h1
      · rw [setScreen_inChains _ _ _ _ _ ho1] at h1
        rw [setScreen_inChains _ _ _ _ _ ho2] at h2
        exact hl.2 r o o' h1 h2

theorem chain_place (l : Lco) (scr : ScreenId) (p : Placement) (hl : l.ChainLaw) (hp : l.placementRefusal scr p = none) :
    (l.place scr p).ChainLaw := by
  unfold Lco.placementRefusal at hp
  split at hp
  · cases hp
  · split at hp
    · cases hp
    · split at hp
      · cases hp
      · rename_i hfit
        have hfit : l.tilesFit scr p.rect.w p.rect.h = true := by simpa using hfit
        unfold Lco.tilesFit at hfit
        rw [List.all_eq_true] at hfit
        have hin : ∀ start, (l.screens[scr].active = start ∨ l.screens[scr].pending = some start) →
            l.ChainEnds p.rect.w p.rect.h 32 start := by
          intro start hs
          refine (ends_congr l l _ _ _ _ 32 start (hl.1 scr start hs) (fun _ _ => rfl) ?_).1
          intro r hr tile ht
          have hm : r ∈ l.activeChain scr ++ l.pendingChain scr := by
            rw [List.mem_append]
            rcases hs with rfl | hs
            · exact .inl hr
            · right; unfold Lco.pendingChain; rw [hs]; exact hr
          have := hfit r hm
          rw [ht] at this
          exact this
        unfold Lco.place
        refine chain_setScreen l scr _ hl (fun start hs => ?_) (fun r hr other hne => ?_)
        · refine hin start (hs.imp id fun hs => ?_)
          dsimp only at hs
          split at hs
          · exact hs
          · cases hs
        · have : l.inChains scr r = true := by
            unfold Lco.inChains at hr ⊢
            unfold Lco.activeChain Lco.pendingChain at hr ⊢
            rw [setScreen_get, if_pos rfl] at hr
            dsimp only at hr
            rw [Bool.or_eq_true] at hr ⊢
            refine hr.imp id fun h => ?_
            split at h
            · rename_i start hs
              split at hs
              · rw [hs]; exact h
              · cases hs
            · cases h
          by_contra hc
          exact hne (hl.2 r other scr (by simpa using hc) this)

/-- The law reads the screens and the records alone. -/
theorem chain_of_eq (l l' : Lco) (hs : l'.screens = l.screens) (ht : l'.tiles = l.tiles) (hl : l.ChainLaw) : l'.ChainLaw := by
  have he : ∀ w h n start, l'.ChainEnds w h n start ↔ l.ChainEnds w h n start := by
    intro w h n
    induction n with
    | zero => intro start; cases start <;> exact Iff.rfl
    | succ n ih =>
      intro start
      cases start with
      | none => exact Iff.rfl
      | some r =>
        unfold Lco.ChainEnds
        rw [ht]
        constructor
        · rintro ⟨tile, a, b, c⟩; exact ⟨tile, a, b, (ih _).mp c⟩
        · rintro ⟨tile, a, b, c⟩; exact ⟨tile, a, b, (ih _).mpr c⟩
  have hc : ∀ scr r, l'.inChains scr r = l.inChains scr r := by
    intro scr r
    unfold Lco.inChains Lco.activeChain Lco.pendingChain Lco.chain
    rw [hs, ht]
  refine ⟨fun scr start h => ?_, fun r scr other h1 h2 => ?_⟩
  · rw [hs] at h ⊢
    rw [he]
    exact hl.1 scr start h
  · rw [hc] at h1 h2
    exact hl.2 r scr other h1 h2

theorem chain_setTile (l : Lco) (r : TileId) (x : Option Tile) (hl : l.ChainLaw) (hr : l.inAnyChain r = false) :
    (l.setTile r x).ChainLaw := by
  have hall : ∀ o : ScreenId, o ∈ allScreens := by decide
  have hno : ∀ scr, l.inChains scr r = false := by
    intro scr
    by_contra hc
    have : l.inAnyChain r = true := by
      unfold Lco.inAnyChain
      rw [List.any_eq_true]
      exact ⟨scr, hall scr, by simpa using hc⟩
    rw [this] at hr; cases hr
  have key : ∀ (scr : ScreenId) (start : Option TileId), (l.screens[scr].active = start ∨ l.screens[scr].pending = some start) →
      (l.setTile r x).ChainEnds l.screens[scr].rect.w l.screens[scr].rect.h 32 start ∧ (l.setTile r x).chain start = l.chain start := by
    intro scr start hs
    have he := hl.1 scr start hs
    refine ends_congr l _ _ _ _ _ 32 start he (fun q hq => ?_) (ends_within l _ _ 32 start he)
    have hne : r.val ≠ q.val := by
      intro e
      have e := Fin.ext e
      subst e
      have := hno scr
      unfold Lco.inChains Lco.activeChain Lco.pendingChain at this
      rw [Bool.or_eq_false_iff] at this
      rcases hs with hs | hs
      · rw [hs] at this
        simp at this
        exact this.1 hq
      · rw [hs] at this
        simp at this
        exact this.2 hq
    simp [Lco.setTile, hne]
  have hact : ∀ scr : ScreenId, (l.setTile r x).activeChain scr = l.activeChain scr := fun scr => (key scr _ (.inl rfl)).2
  have hpend : ∀ scr : ScreenId, (l.setTile r x).pendingChain scr = l.pendingChain scr := by
    intro scr
    unfold Lco.pendingChain
    show (match l.screens[scr].pending with | some start => _ | none => _) = _
    cases hp : l.screens[scr].pending with
    | none => rfl
    | some start => exact (key scr start (.inr hp)).2
  refine ⟨fun scr start hs => (key scr start hs).1, fun q scr other h1 h2 => ?_⟩
  unfold Lco.inChains at h1 h2
  rw [hact, hpend] at h1 h2
  exact hl.2 q scr other h1 h2

theorem canvas_screens (l l' : Lco) (h : ∀ scr : ScreenId, l'.screens[scr].placed = l.screens[scr].placed ∧
    l'.screens[scr].rect = l.screens[scr].rect ∧ (l.screens[scr].placed = false → l.screens[scr].active = none → l.screens[scr].pending = none →
      l'.screens[scr].active = none ∧ l'.screens[scr].pending = none)) (hl : l.CanvasLaw) : l'.CanvasLaw := by
  obtain ⟨⟨p, hp⟩, h2, h3⟩ := hl
  refine ⟨⟨p, by rw [(h p).1]; exact hp⟩, fun scr => ?_, fun a b hab h4 h5 => ?_⟩
  · rw [(h scr).1, (h scr).2.1]
    exact ⟨(h2 scr).1, fun hn => (h scr).2.2 hn ((h2 scr).2 hn).1 ((h2 scr).2 hn).2⟩
  · rw [(h a).1] at h4; rw [(h b).1] at h5
    rw [(h a).2.1, (h b).2.1]
    exact h3 a b hab h4 h5

theorem overlaps_comm (a b : Rect) : a.overlaps b = b.overlaps a := by
  unfold Rect.overlaps
  cases decide (a.x < b.x + b.w) <;> cases decide (b.x < a.x + a.w) <;> cases decide (a.y < b.y + b.h) <;>
    cases decide (b.y < a.y + a.h) <;> rfl

theorem canvas_place (l : Lco) (scr : ScreenId) (p : Placement) (hl : l.CanvasLaw) (hp : l.placementRefusal scr p = none)
    (hr : p.rect.Placeable) : (l.place scr p).CanvasLaw := by
  have hall : ∀ o : ScreenId, o ∈ allScreens := by decide
  obtain ⟨⟨q, hq⟩, h2, h3⟩ := hl
  unfold Lco.placementRefusal at hp
  split at hp
  · cases hp
  · rename_i h4
    split at hp
    · cases hp
    · rename_i h5
      split at hp
      · cases hp
      · split at hp
        · cases hp
        · rename_i h6
          unfold Lco.place
          refine ⟨?_, fun o => ?_, ?_⟩
          · by_cases hpl : p.placed = true
            · exact ⟨scr, by rw [setScreen_get, if_pos rfl]; exact hpl⟩
            · simp [hpl] at h4
              unfold Lco.otherPlaced at h4
              rw [List.any_eq_true] at h4
              obtain ⟨o, -, ho⟩ := h4
              simp at ho
              exact ⟨o, by rw [setScreen_get, if_neg ho.1]; exact ho.2⟩
          · rw [setScreen_get]
            split
            · rename_i ho; subst ho
              refine ⟨hr, fun hpl => ?_⟩
              dsimp only at hpl ⊢
              simp [hpl]
              simp [hpl, Screen.hasChain] at h5
              exact h5.1
            · exact h2 o
          · have key : p.placed = true → ∀ o : ScreenId, o ≠ scr → l.screens[o].placed = true → p.rect.overlaps l.screens[o].rect = false := by
              intro hpl o ho hop
              by_contra hc
              apply h6
              simp [hpl]
              unfold Lco.overlapsOther
              rw [List.any_eq_true]
              exact ⟨o, hall o, by simp at hc; simp [ho, hc]; exact hop⟩
            intro a b hab ha hb
            rw [setScreen_get] at ha hb ⊢
            rw [setScreen_get]
            by_cases h7 : a = scr
            · subst h7
              rw [if_pos rfl] at ha ⊢
              rw [if_neg (Ne.symm hab)] at hb ⊢
              exact key ha b (Ne.symm hab) hb
            · rw [if_neg h7] at ha ⊢
              by_cases h8 : b = scr
              · subst h8
                rw [if_pos rfl] at hb ⊢
                rw [overlaps_comm]
                exact key hb a h7 ha
              · rw [if_neg h8] at hb ⊢
                exact h3 a b hab ha hb

theorem fixed_lawful {x y : Tile} (h : x.fixed = y.fixed) (hy : y.Lawful) : x.Lawful := by
  obtain ⟨n, r, k⟩ := x
  obtain ⟨n', r', k'⟩ := y
  unfold Tile.fixed at h
  unfold Tile.Lawful at *
  cases k <;> cases k' <;> simp_all
  rename_i v b v' b' _ _ _ _
  obtain ⟨_, _, _, _, rfl, rfl⟩ := h
  cases v <;> exact hy.2

def Lco.holds (l : Lco) (x y : Nat) : Prop := ∃ scr : ScreenId, l.screens[scr].placed = true ∧ l.screens[scr].rect.contains x y = true

theorem screenAt_some {l : Lco} {x y : Int} {scr : ScreenId} (h : l.screenAt x y = some scr) :
    l.screens[scr].placed = true ∧ l.screens[scr].rect.containsInt x y = true := by
  unfold Lco.screenAt at h
  have := List.find?_some h
  simpa using this

theorem screenAt_of {l : Lco} {x y : Int} {scr : ScreenId} (h : l.screens[scr].placed = true) (hc : l.screens[scr].rect.containsInt x y = true) :
    ∃ o, l.screenAt x y = some o := by
  have hall : ∀ o : ScreenId, o ∈ allScreens := by decide
  unfold Lco.screenAt
  cases hf : allScreens.find? (fun scr => l.screens[scr].placed && l.screens[scr].rect.containsInt x y) with
  | some o => exact ⟨o, rfl⟩
  | none =>
    have := List.find?_eq_none.mp hf scr (hall scr)
    rw [h, hc] at this; simp at this

theorem contains_cast (r : Rect) (x y : Nat) : r.containsInt x y = r.contains x y := by
  unfold Rect.contains Rect.containsInt
  congr 1 <;> [congr 1 <;> [congr 1; skip]; skip] <;> simp <;> omega

theorem holds_of_screenAt {l : Lco} {x y : Int} {scr : ScreenId} (h : l.screenAt x y = some scr) : l.holds x.toNat y.toNat := by
  obtain ⟨h1, h2⟩ := screenAt_some h
  refine ⟨scr, h1, ?_⟩
  unfold Rect.containsInt at h2
  unfold Rect.contains
  simp at h2 ⊢
  omega

theorem pointer_moved (dx dy : Int) (hc : s.lco.CanvasLaw) (hs : s.PointerLaw) : (s.setPtu (s.moved dx dy)).PointerLaw := by
  have key : ∀ (mx my fx fy : Int),
      let X := s.stepX (s.ptu.px + mx) fx
      let Y := s.stepY X.1 (s.ptu.py + my) fy
      s.lco.holds X.1 Y.1 := by
    intro mx my fx fy X Y
    obtain ⟨scr0, h0, h1⟩ := hs
    rw [← contains_cast] at h1
    obtain ⟨p, hp⟩ := screenAt_of h0 h1
    have hps : s.pointerScreen = p := by unfold State.pointerScreen; rw [hp]; rfl
    have hX : ∃ o, s.lco.screenAt (X.1 : Int) (s.ptu.py : Int) = some o := by
      show ∃ o, s.lco.screenAt ((s.stepX (s.ptu.px + mx) fx).1 : Int) _ = some o
      unfold State.stepX stepAxis
      cases hq : s.lco.screenAt (↑s.ptu.px + mx) (↑s.ptu.py) with
      | some o =>
        obtain ⟨a, b⟩ := screenAt_some hq
        simp only [Option.isSome_some, if_true]
        refine ⟨o, ?_⟩
        have : ((↑s.ptu.px + mx : Int).toNat : Int) = ↑s.ptu.px + mx := by
          unfold Rect.containsInt at b; simp at b; omega
        rw [this]; exact hq
      | none =>
        rw [if_neg (by simp)]
        obtain ⟨a, b⟩ := screenAt_some hp
        subst hps
        have hw := (hc.2.1 s.pointerScreen).1
        unfold Rect.Placeable at hw
        refine screenAt_of a ?_
        unfold Rect.containsInt at b ⊢
        unfold clampInt
        simp at b ⊢
        split <;> [skip; split] <;> omega
    obtain ⟨o, ho⟩ := hX
    show s.lco.holds X.1 (s.stepY X.1 (s.ptu.py + my) fy).1
    unfold State.stepY stepAxis
    cases hq : s.lco.screenAt (↑X.1) (↑s.ptu.py + my) with
    | some o' =>
      have := holds_of_screenAt hq
      simpa using this
    | none =>
      have hg : (s.lco.screenAt ↑X.1 ↑s.ptu.py).getD s.pointerScreen = o := by rw [ho]; rfl
      subst hg
      rw [if_neg (by simp)]
      obtain ⟨a, b⟩ := screenAt_some ho
      have hw := (hc.2.1 ((s.lco.screenAt ↑X.1 ↑s.ptu.py).getD s.pointerScreen)).1
      unfold Rect.Placeable at hw
      refine ⟨_, a, ?_⟩
      simp only
      unfold Rect.containsInt at b
      unfold Rect.contains clampInt
      simp at b ⊢
      split <;> [skip; split] <;> omega
  exact key _ _ _ _

theorem lowestPlaced_placed (l : Lco) (h : ∃ scr : ScreenId, l.screens[scr].placed = true) : l.screens[l.lowestPlaced].placed = true := by
  have hall : ∀ o : ScreenId, o ∈ allScreens := by decide
  obtain ⟨scr, h⟩ := h
  cases hf : allScreens.find? (fun scr => l.screens[scr].placed) with
  | some o =>
    have : l.lowestPlaced = o := by unfold Lco.lowestPlaced; rw [hf]; rfl
    subst this
    simpa using List.find?_some hf
  | none => exact absurd h (List.find?_eq_none.mp hf scr (hall scr))

theorem centre_in (r : Rect) (hw : 1 ≤ r.w) (hh : 1 ≤ r.h) : r.contains r.centre.1 r.centre.2 = true := by
  unfold Rect.centre Rect.contains
  simp
  omega

theorem pointer_recentre (hc : s.lco.CanvasLaw) : s.recentre.PointerLaw := by
  refine ⟨s.lco.lowestPlaced, lowestPlaced_placed _ hc.1, ?_⟩
  have hw := (hc.2.1 s.lco.lowestPlaced).1
  unfold Rect.Placeable at hw
  exact centre_in _ (le_trans (by norm_num) hw.1) (le_trans (by norm_num) hw.2.2.1)

theorem followChain_mem (l : Lco) (w h : Nat) : ∀ (n : Nat) (start : Option TileId), l.ChainEnds w h n start →
    ∀ r ∈ followChain l.tiles n start, ∃ tile, l.tiles[r] = some tile
  | 0, none => fun _ r hr => by cases hr
  | 0, some _ => fun h => h.elim
  | _ + 1, none => fun _ r hr => by cases hr
  | n + 1, some q => by
    rintro ⟨tile, ht, hw, he⟩ r hr
    unfold followChain at hr
    rw [ht] at hr
    rcases List.mem_cons.mp hr with rfl | hr
    · exact ⟨_, ht⟩
    · exact followChain_mem l w h n tile.next he r hr

/-- one axis of a grid lies in the tile and is not empty -/
theorem gridPart_in (o L n k : Nat) (hn : 1 ≤ n) (hL : n ≤ L) (hk : k < n) :
    o ≤ (gridPart o L n k).1 ∧ (gridPart o L n k).1 + (gridPart o L n k).2 ≤ o + L ∧ 1 ≤ (gridPart o L n k).2 := by
  unfold gridPart
  dsimp only
  have hb : 1 ≤ L / n := Nat.div_pos hL hn
  have hm : L / n * n ≤ L := Nat.div_mul_le_self L n
  have h1 : (L / n) * (n - 1) + L / n = L / n * n := by
    obtain ⟨m, rfl⟩ : ∃ m, n = m + 1 := ⟨n - 1, by omega⟩
    simp [Nat.mul_add]
  have h2 : (k + 1) * (L / n) ≤ n * (L / n) := Nat.mul_le_mul_right _ hk
  rw [Nat.mul_comm n, Nat.add_mul] at h2
  split
  · rename_i h
    have : k = n - 1 := by omega
    have h3 : k * (L / n) = (L / n) * (n - 1) := by rw [this, Nat.mul_comm]
    omega
  · omega

theorem shown_in (tile : Tile) (ht : tile.Lawful) (c : Option (Fin 16)) (r : Rect) (h : HeadId) (hm : (c, r, h) ∈ tile.shown) :
    tile.rect.x ≤ r.x ∧ r.x + r.w ≤ tile.rect.x + tile.rect.w ∧ tile.rect.y ≤ r.y ∧ r.y + r.h ≤ tile.rect.y + tile.rect.h ∧
      1 ≤ r.w ∧ 1 ≤ r.h := by
  obtain ⟨hw, hk⟩ := ht
  unfold Rect.writable at hw
  simp at hw
  unfold Tile.shown at hm
  split at hm
  · simp at hm; obtain ⟨_, rfl, _⟩ := hm; omega
  · rename_i columns rows cells border hkind
    rw [hkind] at hk
    obtain ⟨-, h1, h2, h3, h4, h5, h6, h7⟩ := hk
    rw [List.mem_filterMap] at hm
    obtain ⟨⟨cell, i⟩, hmem, hv⟩ := hm
    have hi := List.mem_zipIdx hmem
    simp only [Option.map_eq_some_iff] at hv
    obtain ⟨hh, -, hv⟩ := hv
    cases hv
    unfold cellRect
    have hx := gridPart_in tile.rect.x tile.rect.w columns (i % columns) h1 h5 (Nat.mod_lt _ h1)
    have hy := gridPart_in tile.rect.y tile.rect.h rows (i / columns) h3 h6
      (Nat.div_lt_of_lt_mul (by omega))
    dsimp only
    omega
  · cases hm

theorem pointer_warp (c : Comp) (hl : s.lco.ChainLaw) (ht : s.lco.TileLaw) (hs : s.PointerLaw) : (s.warp c).PointerLaw := by
  unfold State.warp
  split
  · rename_i x y hp
    unfold State.warpPlace at hp
    obtain ⟨scr, -, hp⟩ := List.exists_of_findSome?_eq_some hp
    split at hp
    · rename_i hpl
      refine ⟨scr, hpl, ?_⟩
      unfold State.placeOn at hp
      obtain ⟨r, hr, hp⟩ := List.exists_of_findSome?_eq_some hp
      split at hp
      · cases hp
      · rename_i tile htile
        obtain ⟨⟨cell, rect, h⟩, hm, hp⟩ := List.exists_of_findSome?_eq_some hp
        dsimp only at hp
        split at hp
        · cases hp
          have h1 := shown_in tile (ht r tile htile) _ _ _ hm
          have h2 := ends_within s.lco _ _ 32 _ (hl.1 scr _ (.inl rfl)) r hr tile htile
          unfold Rect.within at h2
          unfold Rect.contains Rect.centre
          simp at h2 ⊢
          omega
        · cases hp
    · cases hp
  · exact hs

theorem pointer_screens (u v : State) (hx : v.ptu.px = u.ptu.px) (hy : v.ptu.py = u.ptu.py)
    (h : ∀ scr : ScreenId, v.lco.screens[scr].placed = u.lco.screens[scr].placed ∧ v.lco.screens[scr].rect = u.lco.screens[scr].rect)
    (hu : u.PointerLaw) : v.PointerLaw := by
  obtain ⟨scr, h1, h2⟩ := hu
  exact ⟨scr, by rw [(h scr).1]; exact h1, by rw [(h scr).2, hx, hy]; exact h2⟩

end Sys2Proof.Machine
end

