-- ==== Sys2Proof/Laws/Requests.lean ====
section
/-! SUPPORT. Requests.lean: what the Control Link Port makes of the oldest request (R177 to R179), in the terms of the
statements: the owning block's answer to a whole frame, and the reply that takes the request's place. -/

namespace Sys2Proof.Machine

variable {s : State} {kind tag : Byte} {payload : List Byte} {rest : List Request}

/-- The bytes of an index below 256 is that index. -/
theorem byte_toNat (n : Nat) (h : n < 256) : (byte n).toNat = n := by
  simp only [byte, BitVec.toNat_ofNat]
  omega

/-- Only the link's queues change in a reply. -/
theorem reply_answered (r : Request) (u : State) (rep : Reply) (hk : r.kind < 0x80) (hi : u.clp.inbound = r :: rest) :
    State.reply r (u, rep) = u.answered r.kind r.tag rest (rep.status.code :: rep.data) := by
  unfold State.reply Clp.sendReply State.answered Reply.frame replyKind State.setClp
  simp only [hi, List.drop_succ_cons, List.drop_zero, if_pos hk]

/-- A whole frame of a kind reaches its owning block, whose reply takes the request's place. -/
theorem execute_asks (h : s.Asks kind tag payload rest) (hk : kind < 0x80) (t : Time)
    (owner : List Byte → State → State × Reply) {u : State} {rep : Reply} (ho : owner payload (s.at t) = (u, rep))
    (hu : u.clp.inbound = s.clp.inbound) :
    s.execute kind t owner = u.answered kind tag rest (rep.status.code :: rep.data) := by
  obtain ⟨hl, hi⟩ := h
  have hok : (Request.mk kind tag (byte payload.length) payload payload.length).frameOk = true := by
    simp only [Request.frameOk, byte_toNat _ (by omega : payload.length < 256), Bool.and_eq_true, decide_eq_true_eq,
      and_true]
    exact hl
  have hat : (s.at t).clp.inbound =
      { kind := kind, tag := tag, lengthByte := byte payload.length, body := payload, count := payload.length } :: rest := hi
  unfold State.execute
  rw [hat]
  simp only [if_true, hok, ho]
  exact reply_answered _ u rep hk (by rw [hu]; exact hi)

/-- The same, where the owning block leaves the state as it found it. -/
theorem execute_asks_same (h : s.Asks kind tag payload rest) (hk : kind < 0x80) (t : Time)
    (owner : List Byte → State → State × Reply) {rep : Reply} (ho : owner payload (s.at t) = (s.at t, rep)) :
    s.execute kind t owner = (s.at t).answered kind tag rest (rep.status.code :: rep.data) :=
  execute_asks h hk t owner ho rfl

end Sys2Proof.Machine
end

