-- ==== Sys2Proof/WellFormed.lean ====
section
/-! DEFINITION. WellFormed.lean: which operands a row of the table can carry, where the types do not say it already.
Two rows name an operand by what it is not: CONFIGURATION_0_SELECTED (configuration 1 has a row of its own) and
OTHER_OPENING_BYTE (0x3C and 0x3D have rows of their own). -/

namespace Sys2Proof

/-- The operand checks of the commands (R105 for the configuration number, R174 for the opening byte). -/
def Instr.wellFormed : Instr → Bool
  | .configuration0Selected _ _ number => decide (number ≠ 1)
  | .otherOpeningByte _ [] => false
  | .otherOpeningByte _ (opening :: _) => decide (opening ≠ 0x3C) && decide (opening ≠ 0x3D)
  | _ => true

end Sys2Proof
end

