-- ==== Sys2Proof/Tests/Slice0.lean ====
section
/-! SUPPORT. Slice0.lean: the model's own tests. The first part checks one step each against the manual's worked examples and
tables; the second shows, for each statement with hypotheses, a state and operands that meet them, clause by clause. -/

namespace Sys2Proof.Tests

open Sys2Proof Sys2Proof.Machine

/-! ## Ill-formed commands -/

theorem test_configuration_number_1_is_another_row : Instr.wellFormed (.configuration0Selected 0 0 1) = false := by decide

theorem test_opening_put_is_another_row : Instr.wellFormed (.otherOpeningByte 0 [0x3C]) = false := by decide

theorem test_opening_take_is_another_row : Instr.wellFormed (.otherOpeningByte 0 [0x3D, 0]) = false := by decide

/-! ## Small states -/

/-- The state after a command. -/
def after (c : Instr) (s : State) : State := match exec c s with
  | .next t => t
  | .fault _ => s
  | .refused _ => s

/-- A state with one request waiting, its tag 7. -/
def asking (kind : Byte) (payload : List Byte) (s : State) : State :=
  { s with clp := { s.clp with inbound :=
    [{ kind := kind, tag := 7, lengthByte := byte payload.length, body := payload, count := payload.length }] } }

/-- The payload of the youngest frame. -/
def youngestPayload (s : State) : Option (List Byte) := s.clp.outbound.getLast?.map Frame.payload

/-- The kinds of the frames queued after the nine of full reset. -/
def newKinds (s : State) : List Byte := (s.clp.outbound.drop 9).map Frame.kind

def desk (p : DeskPortId) (d : DeskPort) (s : State) : State := { s with diu := s.diu.set p d }

def computer (c : Comp) (r : Computer) (s : State) : State := { s with cps := s.cps.set c r }

def head (h : HeadId) (owner : Comp) (width height dx : Nat) (s : State) : State :=
  { s with lco := { s.lco with heads := s.lco.heads.set h { owner := owner, dx := dx, dy := 0, size := some (width, height) } } }

def tile (r : TileId) (next : Option TileId) (rect : Rect) (kind : TileKind) (s : State) : State :=
  { s with lco := { s.lco with tiles := s.lco.tiles.set r (some { next := next, rect := rect, kind := kind }) } }

def screen (scr : ScreenId) (x y w h : Nat) (active : Option TileId) (s : State) : State :=
  { s with lco := { s.lco with
      screens := s.lco.screens.set scr { s.lco.screens[scr] with rect := ⟨x, y, w, h⟩, active := active } } }

def pendingChain (scr : ScreenId) (start : Option TileId) (s : State) : State :=
  { s with lco := { s.lco with screens := s.lco.screens.set scr { s.lco.screens[scr] with pending := some start } } }

def unplaced (scr : ScreenId) (s : State) : State :=
  { s with lco := { s.lco with screens := s.lco.screens.set scr { s.lco.screens[scr] with placed := false } } }

def pointerAt (x y : Nat) (fx fy : Int) (s : State) : State := { s with ptu := { s.ptu with px := x, py := y, fx := fx, fy := fy } }

/-- The pointer's position and remainders. -/
def place (s : State) : Nat × Nat × Int × Int := (s.ptu.px, s.ptu.py, s.ptu.fx, s.ptu.fy)

def power (scr : ScreenId) (p : Power) (s : State) : State := { s with wpc := { s.wpc with power := s.wpc.power.set scr p } }

def configured : Computer := { Computer.reset with port := .configured }

def single (h : HeadId) : TileKind := .single h none .primary false .whole 0

/-! ## Desk ports: the worked example of 01_desk_ports_and_input_events.md -/

def twoKeyboards : State := desk 1 (.keyboard 0x03 [4, 5]) (desk 2 (.keyboard 0x20 []) State.reset)

theorem test_step_3_is_the_previous_report :
    (after (.keyboardReport 1 1 [0x01, 0, 5, 6, 0, 0, 0, 0]) twoKeyboards).diu[1] = .keyboard 0x01 [5, 6] := by decide

theorem test_step_5_is_an_error_report :
    (after (.keyboardReport 1 1 [0x01, 0, 1, 1, 1, 1, 1, 1]) twoKeyboards).diu[1] = .keyboard 0x03 [4, 5] := by decide

theorem test_a_keyboard_elsewhere_keeps_shift : twoKeyboards.deskModifiers = 0b0011 := by decide

theorem test_detach_empties_the_port : (after (.deviceDetach 1 1) twoKeyboards).diu[1] = .empty := by decide

theorem test_a_made_key_takes_its_slot :
    (DeskPort.keyboard 0 [5, 6]).press [5, 4, 6, 0, 0, 0] 4 = .keyboard 0 [5, 4, 6] := by decide

theorem test_hub_is_unsupported :
    (after (.enumerationEnd 9 0 { bootKeyboard := false, bootPointer := false, hub := true })
      (desk 0 (.enumerating 1000) State.reset)).diu[0] = .unsupported .hub := by decide

theorem test_enumeration_deadline :
    (after (.enumerationDeadlineExpiry 1000 0) (desk 0 (.enumerating 1000) State.reset)).diu[0] = .unsupported .noResponse := by
  decide

theorem test_pointer_report_keeps_five_buttons :
    (after (.pointerReport 1 0 [0xE2, 3, 0xFF, 0xFF]) (desk 0 (.pointer 1) State.reset)).diu[0] = .pointer 2 := by decide

/-! ## Hotkeys: the worked examples of 02_hotkeys.md -/

def scrollLock : State :=
  let entry : HotkeyEntry := { HotkeyEntry.reset with enabled := true, kind := .sequence, usage := 0x1F, command := .select, argument := 2 }
  let s := desk 0 (.keyboard 0 []) State.reset
  { s with hks := { s.hks with leader := some 0x47, table := s.hks.table.set 0 entry } }

def held (events : List (Bool × Byte)) (seq : Sequencer) (keys : List Byte) (mods : Byte) : State :=
  let s := desk 0 (.keyboard mods keys) scrollLock
  { s with hks := { s.hks with seq := seq, hold := events.map (fun e => { port := 0, make := e.1, usage := e.2 }) } }

theorem test_leader_press_waits :
    (after (.keyboardReport 0 0 [0, 0, 0x47, 0, 0, 0, 0, 0]) scrollLock).hks.seq = .firstTap .firstDown 350 := by decide

theorem test_sequence_selects_computer_2 :
    let s := after (.keyboardReport 1100 0 [2, 0, 0x1F, 0, 0, 0, 0, 0])
      (held [(true, 0x47), (false, 0x47), (true, 0x47), (false, 0x47), (true, 0xE1)] (.armed 2280) [] 2)
    (s.hks.seq, s.hks.hold, s.hks.swallowed, s.fcu.focus, newKinds s) = (.idle, [], [(0, 0x1F)], 2, [0x41, 0x49]) := by decide

theorem test_single_tap_is_released_in_order :
    let s := after (.keyboardReport 150 0 [0, 0, 4, 0, 0, 0, 0, 0])
      (computer 0 configured (held [(true, 0x47), (false, 0x47)] (.firstTap .firstUp 410) [] 0))
    ((s.comp 0).queue.map (fun e => match e with | .keyboard k => k.slots[0] | _ => 0), s.hks.seq) = ([0x47, 0, 4], .idle) := by decide

theorem test_command_deadline_is_a_timeout :
    youngestPayload (after (.commandDeadlineExpiry 2280) (held [(true, 0x47)] (.armed 2280) [] 0)) = some [0, 0xFF, 3, 0, 0] := by
  decide

theorem test_tap_deadline_releases :
    (after (.tapDeadlineExpiry 350) (held [(true, 0x47)] (.firstTap .firstDown 350) [0x47] 0)).rtf.held.length = 1 := by decide

theorem test_hotkey_timing_clamps :
    youngestPayload (after (.setHotkeyTiming 1) (asking 0x05 [0x47, 0, 0, 0xFF, 0xFF] State.reset)) =
      some [0, 0x47, 100, 0, 0x88, 0x13] := by decide

theorem test_write_hotkey_refuses_usage_0 :
    youngestPayload (after (.writeHotkey 1) (asking 0x06 [0, 1, 0, 0, 0, 0, 0, 0, 12, 0] State.reset)) = some [4] := by decide

/-! ## Keys: the worked examples of 03_routing_rules_and_held_keys.md -/

theorem test_rollover_keeps_the_modifiers :
    snapshotOf [0xE0, 4, 5, 6, 7, 8, 9, 10] = { mods := 1, slots := #v[1, 1, 1, 1, 1, 1] } := by decide

theorem test_six_usages_in_joining_order :
    snapshotOf [6, 7, 8, 9, 10, 11] = { mods := 0, slots := #v[6, 7, 8, 9, 10, 11] } := by decide

theorem test_a_fixed_mask_reaches_two_computers :
    let rule : RouteRule := { RouteRule.reset with enabled := true, ports := 3, low := 0xE0, high := 0xE7, fixed := 0x10 }
    let s := computer 4 configured (computer 0 configured (desk 0 (.keyboard 0 []) State.reset))
    let t := after (.keyboardReport 1 0 [2, 0, 0, 0, 0, 0, 0, 0]) { s with rtf := { s.rtf with rules := s.rtf.rules.set 1 rule } }
    ((t.comp 0).keySet, (t.comp 4).keySet, (t.comp 1).keySet) = ([0xE1], [0xE1], []) := by decide

theorem test_write_rule_refuses_low_above_high :
    youngestPayload (after (.writeRule 1) (asking 0x07 [0, 1, 15, 9, 8, 0, 0, 0, 0, 1, 0] State.reset)) = some [4] := by decide

/-! ## Focus: the worked examples of 04_focus.md -/

def grid : State :=
  screen 1 1920 0 2560 1440 (some 20) (screen 0 0 0 1920 1080 (some 10)
    (tile 20 none ⟨0, 0, 2560, 1440⟩ (.grid 2 2 [some 4, some 5, some 6, none] 0) (tile 10 none ⟨0, 0, 1920, 1080⟩ (single 0)
      (head 0 0 1920 1080 0 (head 4 1 1920 1080 0 (head 5 2 1920 1080 0 (head 6 3 1920 1080 0
        (unplaced 2 (unplaced 3 (computer 0 configured (computer 1 configured (computer 2 configured State.reset))))))))))))

theorem test_focus_warps_to_the_cell :
    let s := after (.setFocus 1000) (asking 0x10 [2, 0] (pointerAt 900 500 0 0 grid))
    (s.fcu.focus, place s, s.fcu.guard, s.fcu.park, newKinds s) = (2, (3840, 360, 0, 0), some 1200, none, [0x41, 0x90]) := by
  decide

theorem test_focus_shown_nowhere_parks :
    let s := after (.setFocus 5000) (asking 0x10 [5, 0] (pointerAt 3840 360 0 0 grid))
    (s.fcu.park, s.ptu.px) = (some { screen := 1, record := some 20, cell := some 1 }, 3840) := by decide

theorem test_set_lock_none_with_a_button_is_soft :
    let s := desk 0 (.pointer 1) State.reset
    (after (.setLock 1) (asking 0x11 [0] { s with fcu := { s.fcu with lock := .hard } })).fcu.lock = .soft := by decide

theorem test_read_focus_after_reset :
    youngestPayload (after (.readFocus 1) (asking 0x1A [] State.reset)) =
      some [0, 0, 0, 0xFF, 0, 0, 0xFF, 0xFF, 0xFF, 0xFF, 4] := by decide

theorem test_dwell_expiry_glides :
    let s := grid
    (after (.dwellDeadlineExpiry 60) { s with fcu := { s.fcu with pending := some { target := 1, deadline := 60 } } }).fcu.focus = 1 := by
  decide

/-! ## The pointer: the worked examples of 05_pointer_arithmetic_and_glide.md -/

def edges (x y : Nat) (fx fy : Int) : State :=
  let s := pointerAt x y fx fy (desk 0 (.pointer 0) (unplaced 2 (unplaced 3 (unplaced 4 (unplaced 5 (unplaced 6 (unplaced 7
    (screen 1 1920 0 2560 1440 none State.reset))))))))
  { s with ptu := { s.ptu with speed := 24 } }

theorem test_movement_row_1 :
    place (after (.pointerReport 1 0 [0, 0xF3, 3]) (edges 1925 1300 (-10) 5)) = (1920, 1304, 0, 13) := by decide

theorem test_movement_row_5 :
    place (after (.pointerReport 1 0 [0, 0, 20]) (edges 1845 1065 0 (-3))) = (1845, 1079, 0, 0) := by decide

theorem test_crop_at_the_corner :
    let s := head 3 1 1920 1080 0 (tile 30 none ⟨0, 0, 1920, 1080⟩ (.single 3 none .primary false (.crop ⟨960, 540, 960, 540⟩) 0)
      (screen 0 0 0 1920 1080 (some 30) State.reset))
    (pointerAt 1919 1079 0 0 s).hitTest.2 = some { target := 1, ax := 32759, ay := 32752 } := by decide +kernel

theorem test_a_grid_cell_with_an_offset :
    let s := head 5 2 1920 1080 1920 (computer 2 { configured with dw := 3840 } grid)
    let s := tile 20 none ⟨0, 0, 2560, 1440⟩ (.grid 2 2 [some 5, none, none, none] 0) s
    (pointerAt (1920 + 880) 700 0 0 s).hitTest.2 = some { target := 2, ax := 27652, ay := 31872 } := by decide +kernel

theorem test_click_to_focus :
    let s := desk 0 (.pointer 0) (pointerAt 1940 500 0 0 grid)
    let s := after (.pointerReport 40 0 [1, 0, 0])
      { s with fcu := { s.fcu with pending := some { target := 1, deadline := 60 } } }
    (s.fcu.focus, s.fcu.lock, (s.comp 1).lastPointer, (s.comp 1).queue.length) =
      (1, .soft, some { buttons := 1, ax := 520, ay := 22770 }, 2) := by decide +kernel

theorem test_guard_expiry_over_the_focus_computer :
    let s := pointerAt 900 500 0 0 grid
    (after (.guardDeadlineExpiry 240) { s with fcu := { s.fcu with guard := some 240 } }).fcu.guard = none := by decide

/-! ## Computer ports: the worked examples of 06_computer_ports.md -/

theorem test_a_port_from_attach_to_configured :
    let s := after (.configuration1Selected 3 1) (after (.busReset 2 1) (after (.busPowerPresent 1 1) State.reset))
    ((s.comp 1).port, (s.clp.outbound.drop 9).map Frame.payload) =
      (.configured, [[0, 1, 1, 0, 0], [0, 1, 2, 1, 0], [0, 1, 3, 2, 0]]) := by decide

theorem test_grant_and_suspend :
    let s := after (.busIdle 2 1) (after (.setRemoteWake 1 1) (computer 1 configured State.reset))
    ((s.comp 1).port, (s.comp 1).remoteWake) = (.suspended, true) := by decide

theorem test_a_key_wakes_a_suspended_computer :
    let s := desk 0 (.keyboard 0 []) (computer 1 { configured with port := .suspended, remoteWake := true } State.reset)
    let s := after (.keyboardReport 1 0 [0, 0, 4, 0, 0, 0, 0, 0]) { s with fcu := { s.fcu with focus := 1 } }
    ((s.comp 1).port, (s.comp 1).queue.length, (s.wpc.wakes[1]).map WakeAttempt.cause) = (.resuming, 1, some .input) := by decide

def fullQueue : Computer :=
  { configured with
    port := .suspended, lastSnapshot := some (snapshotOf [4]), lastPointer := some { buttons := 0, ax := 1020, ay := 2000 }
    queue := List.replicate 15 (.keyboard (snapshotOf [4])) ++ [.pointer { buttons := 0, ax := 1020, ay := 2000 } 0] }

theorem test_step_3_owes_the_snapshot :
    let r := fullQueue.takeSnapshot (snapshotOf [4, 5])
    (r.queue.length, r.owedKeyboard, r.merge) = (16, true, 1) := by decide

theorem test_step_4_owes_the_press :
    let r := fullQueue.takePointer { buttons := 1, ax := 1020, ay := 2000 } 0
    (r.owedPointer, r.merge, r.lastPointer) = (true, 1, some { buttons := 1, ax := 1020, ay := 2000 }) := by decide

theorem test_sleep_displaces_the_pointer_entry :
    let r := (fullQueue.takeSystem .sleep).1
    (r.queue.getLast?, r.queue.length, r.owedPointer, r.merge) = (some (.system .sleep), 16, true, 1) := by decide

theorem test_poll_pays_the_press :
    let s := computer 3 { fullQueue with port := .configured, keySet := [4], owedKeyboard := true, owedPointer := true,
                                         lastPointer := some { buttons := 1, ax := 1020, ay := 2000 } } State.reset
    let r := (after (.poll 1 3 true) s).comp 3
    (r.queue.getLast?, r.owedKeyboard, r.owedPointer) =
      (some (.pointer { buttons := 1, ax := 1020, ay := 2000 } 0), false, false) := by decide

theorem test_resume_completes_with_a_result :
    let s := computer 1 { configured with port := .resuming, remoteWake := true } State.reset
    let s := { s with wpc := { s.wpc with wakes := s.wpc.wakes.set 1 (some { cause := .desk, start := 40000, deadline := 43000 }) } }
    youngestPayload (after (.resumeCompletes 40600 1) s) = some [0, 1, 0, 4, 60] := by decide

theorem test_configuration_2_stalls :
    ((after (.configuration0Selected 1 1 2) (computer 1 configured State.reset)).comp 1).answer = .stall := by decide

theorem test_set_computer_writes_the_extent :
    ((after (.setComputer 1) (asking 0x01 [4, 0x00, 0x0F, 0x38, 0x04, 0] State.reset)).comp 4).dw = 3840 := by decide

/-! ## Screens, tiles and chains: the worked examples of 07_heads_tiles_and_composition.md -/

def layout : State :=
  tile 31 (some 10) ⟨0, 0, 100, 100⟩ (single 0) (tile 30 (some 11) ⟨0, 0, 100, 100⟩ (single 0)
    (tile 20 none ⟨0, 0, 100, 100⟩ (single 0) (tile 11 (some 10) ⟨960, 0, 960, 1080⟩ (single 0)
      (tile 10 none ⟨0, 0, 960, 1080⟩ (.single 0 (some 1) .primary false .whole 0)
        (power 0 .active (power 1 .active (screen 0 0 0 1920 1080 (some 11) (screen 1 1920 0 1920 1080 (some 20)
          (head 0 0 1920 1080 0 (head 1 0 1920 1080 0 (computer 0 configured State.reset)))))))))))

theorem test_step_1_waits :
    let s := after (.setChain 1) (asking 0x0C [0, 30, 0] layout)
    (youngestPayload s, s.lco.pendingChain 0) = (some [0, 0], [30, 11, 10]) := by decide

theorem test_step_3_is_owned_elsewhere :
    youngestPayload (after (.setChain 1) (asking 0x0C [1, 31, 0] layout)) = some [6, 4, 10] := by decide

theorem test_step_6_applies_and_flips :
    let flipping := tile 10 none ⟨0, 0, 960, 1080⟩ (.single 0 (some 1) .primary true .whole 0) (pendingChain 0 (some 31) layout)
    let s := after (.frameStart 1 0) flipping
    (s.lco.activeChain 0, newKinds s, (s.lco.tiles[10]).map Tile.kind) =
      ([31, 10], [0x46, 0x4C], some (.single 0 (some 1) .alternate false .whole 0)) := by decide

theorem test_flip_waits_for_the_frame :
    youngestPayload (after (.flipTile 1) (asking 0x0F [10] layout)) = some [0, 0, 1] := by decide

theorem test_write_tile_in_a_chain_is_in_use :
    youngestPayload (after (.writeTile 1) (asking 0x0A [11, 2, 0xFF, 0xFF, 0, 0, 0, 0, 1, 0, 1, 0, 1, 2, 3] layout)) = some [5] := by
  decide

theorem test_free_tile :
    (after (.freeTile 1) (asking 0x0B [30] layout)).lco.tiles[30] = none := by decide

def cropped : State :=
  let s := head 6 3 1920 1080 0 (tile 40 none ⟨100, 50, 800, 450⟩ (.single 6 none .primary false (.crop ⟨1600, 900, 640, 360⟩) 4)
    (screen 2 3840 0 1920 1080 (some 40) State.reset))
  { s with fcu := { s.fcu with focus := 3 } }

theorem test_a_crop_shows_the_head : (cropped.frame 2).pixelAt 400 200 = .source 6 1840 1020 := by decide

theorem test_a_crop_past_the_head_is_background :
    (cropped.frame 2).pixelAt 500 200 = .colour { red := 0, green := 0, blue := 0 } := by decide

theorem test_the_focus_border : (cropped.frame 2).pixelAt 102 200 = .colour { red := 255, green := 255, blue := 255 } := by decide

theorem test_five_heads_to_an_owner :
    youngestPayload (after (.setHead 1) (asking 0x02 [0, 3, 0, 0, 0, 0]
      (head 6 3 640 480 0 (head 7 3 640 480 0 (head 8 3 640 480 0 (head 9 3 640 480 0 State.reset)))))) = some [5] := by decide

theorem test_a_signal_out_of_range_is_none :
    (after (.modeChanged 1 6 639 480) cropped).lco.heads[6].size = none := by decide

theorem test_place_screen_refuses_an_overlap :
    youngestPayload (after (.placeScreen 1) (asking 0x03 [1, 1, 0x7F, 7, 0, 0, 0x80, 7, 0x38, 4, 0, 0, 0, 0] State.reset)) = some [8] := by
  decide

theorem test_border_colours :
    (after (.setBorderColours 1) (asking 0x08 [1, 2, 3, 4, 5, 6, 7, 8, 9] State.reset)).lco.borders.lock =
      { red := 4, green := 5, blue := 6 } := by decide

/-! ## Presets: the worked example of 08_presets_and_shared_views.md -/

theorem test_a_preset_across_five_screens :
    let p : Preset := { screens := #v[.chain (some 50), .chain (some 60), .chain (some 70), .chain (some 80), .chain (some 20), .keep,
                                      .keep, .keep], focus := some 4, next := some 0 }
    let s := head 0 0 1920 1080 0 (head 2 1 1920 1080 0 (head 8 4 1920 1080 0 (head 9 4 1920 1080 1920 (computer 4 configured
      (unplaced 3 (power 0 .active (power 1 .active (power 2 (.standby false) (power 4 .active State.reset)))))))))
    let s := tile 10 none ⟨0, 0, 1920, 1080⟩ (single 0) (tile 20 none ⟨0, 0, 1920, 1080⟩ (single 2)
      (tile 50 none ⟨0, 0, 1920, 1080⟩ (single 8) (tile 60 (some 61) ⟨0, 0, 1920, 1000⟩ (.grid 2 1 [some 9, some 2] 0)
        (tile 61 none ⟨0, 1000, 1920, 80⟩ (.fill { red := 0, green := 0, blue := 0 })
          (tile 70 none ⟨480, 270, 960, 540⟩ (single 8) s)))))
    let s := screen 0 0 0 1920 1080 (some 10) (screen 1 1920 0 1920 1080 (some 20) s)
    let s := after (.applyPreset 1) (asking 0x0E [3] { s with lco := { s.lco with presets := s.lco.presets.set 3 (some p) } })
    (youngestPayload s, s.fcu.focus, s.ptu.px, s.ptu.py, newKinds s) =
      (some [0, 2, 0], 4, 4800, 540, [0x46, 0x45, 0x41, 0x47, 0x8E]) := by decide

theorem test_write_preset_empties :
    (after (.writePreset 1) (asking 0x0D [3] State.reset)).lco.presets[3] = none := by decide

/-! ## Power: the worked example of 09_wake_desk_sleep_and_screen_power.md -/

def sleeping : State :=
  let s := desk 0 (.keyboard 0 []) (computer 1 { configured with port := .suspended, remoteWake := true } State.reset)
  { s with fcu := { s.fcu with focus := 1 }, wpc := { s.wpc with desk := .asleep, awaited := 3, power := .replicate 8 (.standby true) } }

theorem test_a_key_wakes_the_desk :
    let s := after (.keyboardReport 40000 0 [0, 0, 4, 0, 0, 0, 0, 0]) sleeping
    (s.wpc.desk, s.wpc.awaited, s.wpc.power[1], (s.comp 1).port, s.rtf.held) = (.awake, 0, .darkHold 70000, .resuming, []) := by decide

theorem test_desk_sleep_asks_the_computers :
    let asks : Computer := { configured with sleepsWithDesk := true }
    let s := after (.deskSleep 0) (asking 0x13 [] (computer 0 asks (computer 1 asks (computer 2 configured State.reset))))
    (s.wpc.desk, s.wpc.awaited, s.wpc.deskDeadline, (s.comp 0).queue) =
      (.sleepRequested, 3, some 15000, [.system .sleep, .system .none]) := by decide

theorem test_the_desk_deadline_sleeps :
    let s := State.reset
    let s := after (.deskDeadlineExpiry 15000)
      { s with wpc := { s.wpc with desk := .sleepRequested, awaited := 3, deskDeadline := some 15000 } }
    (s.wpc.desk, s.wpc.power[0]) = (.asleep, .standby true) := by decide

theorem test_desk_wake_of_an_awake_desk :
    youngestPayload (after (.deskWake 1) (asking 0x14 [] State.reset)) = some [0, 0] := by decide

theorem test_wake_without_permission :
    youngestPayload (after (.wakeComputer 1) (asking 0x12 [1] (computer 1 { configured with port := .suspended } State.reset))) =
      some [10] := by decide

theorem test_a_wake_attempt_times_out :
    let s := computer 1 { configured with port := .resuming, remoteWake := true } State.reset
    let s := { s with wpc := { s.wpc with wakes := s.wpc.wakes.set 1 (some { cause := .host, start := 0, deadline := 3000 }) } }
    ((after (.wakeAttemptDeadlineExpiry 3000 1) s).comp 1).port = .suspended := by decide

theorem test_dark_hold_ends_in_standby :
    (after (.holdDeadlineExpiry 30000 5) State.reset).wpc.power[5] = .standby false := by decide

theorem test_power_timing_clamps :
    youngestPayload (after (.setPowerTiming 1) (asking 0x09 [0, 0, 0xFF, 0xFF, 0xFF, 0xFF] State.reset)) =
      some [0, 200, 0, 0x60, 0xEA, 0x58, 2] := by decide

/-! ## Panels: the worked example of 10_desk_panels.md -/

def panels (button : ButtonState) (bus : BusTransaction) : State :=
  let p (a : Fin 4) : Panel := { address := a, present := true, buttons := (Vector.replicate 8 .released).set 4 button,
                                 lastPattern := some 0, readDue := false, writeDue := false }
  let s := State.reset
  { s with fcu := { s.fcu with focus := 2 }, psc := { panels := [p 0, p 2], scanner := .idle, bus := some bus } }

theorem test_a_press_is_seen_twice :
    ((after (.panelReadCompletes 1000 true 0xEF 0xFF) (panels .released (.read 1))).psc.panels.map (fun p => p.buttons[4])) =
      [.released, .pressSeen] := by decide

theorem test_a_press_asks_for_focus :
    let s := after (.panelReadCompletes 1010 true 0xEF 0xFF) (panels .pressSeen (.read 1))
    (s.fcu.focus, newKinds s, s.psc.panels.map (fun p => p.writeDue)) = (4, [0x41, 0x4A], [true, true]) := by decide

theorem test_a_lost_panel_is_told :
    youngestPayload (after (.panelWriteCompletes 1030 false) (panels .held (.write 0 0xFF 4 false))) = some [0, 1, 0, 0x38, 1] := by decide

theorem test_a_change_undone_is_written_again :
    let s := panels .held (.write 0 0xFF 4 false)
    let away := State.deriveLeds { s with fcu := { s.fcu with focus := 3 } }
    let back := State.deriveLeds { away with fcu := s.fcu }
    (after (.panelWriteCompletes 1030 true) back).psc.bus = some (.write 0 0xFF 4 false) ∧
    (after (.panelWriteCompletes 1030 true) s).psc.bus = none := by decide

theorem test_the_first_probe_is_0x38 : (after (.probeCompletes 1 true) State.reset).psc.bus = some (.probe 1) := by decide

theorem test_full_reset_lets_the_bus_finish :
    let s := after (.fullReset 5) (panels .held (.write 0 0xFF 4 false))
    (s.psc.bus, s.psc.panels, (after (.panelWriteCompletes 6 true) s).psc.bus) = (some (.write 0 0xFF 4 false), [], some (.probe 0)) := by
  decide

theorem test_a_write_carries_ones_and_the_pattern :
    let p : Panel := { address := 1, present := true, buttons := .replicate 8 .held, lastPattern := none, readDue := false, writeDue := true }
    (Psc.startNext 0x55 { panels := [p], scanner := .idle, bus := none }).bus = some (.write 0 0xFF 0x55 false) := by decide

theorem test_a_poll_tick_starts_a_read :
    let s := panels .released (.read 0)
    (after (.pollTick 20) { s with psc := { s.psc with bus := none } }).psc.bus = some (.read 0) := by decide

theorem test_scan_panels_while_scanning :
    youngestPayload (after (.scanPanels 1) (asking 0x15 [] State.reset)) = some [9] := by decide

/-! ## The link: 11_control_link.md -/

/-- The worked example's queue: 30 frames, and two requests holding places. -/
def fullLink : State :=
  let s := asking 0x1C [] State.reset
  { s with clp := { s.clp with inbound := s.clp.inbound ++ s.clp.inbound, outbound := List.replicate 30 ⟨0x40, 0, [0]⟩ } }

theorem test_a_notice_without_a_slot_is_lost :
    let s := after (.busPowerPresent 1 0) fullLink
    (s.clp.outbound.length, s.clp.lost) = (30, true) := by decide

theorem test_a_reply_uses_its_reservation :
    let s := after (.readDesk 1) fullLink
    (s.clp.outbound.length, s.clp.inbound.length) = (31, 1) := by decide

theorem test_the_first_notice_after_a_loss_says_so :
    let s := State.reset
    youngestPayload (after (.deviceAttach 1 2) { s with clp := { s.clp with lost := true } }) = some [1, 2, 1, 0] := by decide

theorem test_a_put_carries_a_request :
    let s := after (.putDeselect 3 [0x1C, 9, 0]) (after (.put 2) (after (.spiSelect 1) State.reset))
    s.clp.inbound = [{ kind := 0x1C, tag := 9, lengthByte := 0, body := [], count := 0 }] := by decide

theorem test_a_take_removes_a_whole_frame :
    let s := after (.takeDeselect 3 4) (after (.take 2) (after (.spiSelect 1) State.reset))
    (s.clp.outbound.length, s.clp.spiOut) = (8, [3, 0x40, 0, 1, 0]) := by decide

theorem test_a_short_take_removes_nothing :
    (after (.takeDeselect 3 3) (after (.take 2) (after (.spiSelect 1) State.reset))).clp.outbound.length = 9 := by decide

theorem test_another_opening_byte_reads_zeros :
    (after (.otherOpeningByte 2 [0x99, 1, 2]) (after (.spiSelect 1) State.reset)).clp.spiOut = [3, 0, 0] := by decide

theorem test_an_unknown_kind_is_answered :
    (after (.unknownRequest 1) (asking 0x1F [] State.reset)).clp.outbound.getLast? =
      some { kind := 0x9F, tag := 7, payload := [1] } := by decide

theorem test_restart_answers_first :
    ((after (.restart 1) (asking 0x16 [] State.reset)).clp.outbound.head?).map Frame.payload = some [0, 0, 9] := by decide +kernel

theorem test_full_reset_queues_reset_done : (after (.fullReset 5) layout).clp.outbound.length = 9 := by decide

/-! ## Witnesses: states and operands that meet the hypotheses of the statements -/

/-- A request waiting is what `Asks` says. -/
theorem asks (kind : Byte) (payload : List Byte) (s : State) (h : payload.length ≤ 60) :
    (asking kind payload s).Asks kind 7 payload [] := ⟨h, rfl⟩

def queued (c : Instr) (s : State) : State := { s with pending := [c] }

theorem witness_StepRunsTheFrontCommand :
    (queued (.put 3) State.reset).pending = .put 3 :: [] ∧ State.reset.pending = [] := by decide

/-- A dwell running, and a key of the focus computer held. -/
def dwelling : State :=
  let s := queued (.dwellDeadlineExpiry 60) (computer 0 { configured with keySet := [4] } State.reset)
  { s with
    fcu := { s.fcu with pending := some { target := 1, deadline := 60 } }
    rtf := { s.rtf with held := [{ port := 0, usage := 4, focusMember := some 0, fixed := 0 }] } }

theorem witness_EveryStepKeepsTheFocusLaws :
    (∃ t, step dwelling = .next t) ∧ dwelling.fcu.PendingTargetLaw ∧ dwelling.FocusMemberLaw := by
  refine ⟨⟨_, rfl⟩, fun p h => ?_, fun k hk c hc => ?_⟩
  · cases h; decide
  · cases List.mem_singleton.mp hk; cases hc; decide

theorem witness_EveryStepKeepsThePortLaws :
    (∃ t, step dwelling = .next t) ∧ dwelling.ReportQueueLaw ∧ dwelling.KeySetLaw := by
  refine ⟨⟨_, rfl⟩, ⟨by decide, fun k hk => ?_⟩, fun c => ⟨by revert c; decide, fun u => ?_⟩⟩
  · cases List.mem_singleton.mp hk; decide
  · have hs : ∀ c : Comp, (dwelling.comp c).keySet = if c = 0 then [4] else [] := by decide
    have hh : dwelling.rtf.held = [{ port := 0, usage := 4, focusMember := some 0, fixed := 0 }] := rfl
    rw [hs, hh]
    by_cases hc : c = 0
    · subst hc
      rw [if_pos rfl, List.mem_singleton]
      refine ⟨fun h => ⟨_, List.mem_singleton_self _, h.symm, by decide⟩, fun ⟨k, hk, he, _⟩ => ?_⟩
      cases List.mem_singleton.mp hk; exact he.symm
    · rw [if_neg hc]
      refine ⟨fun h => (List.not_mem_nil h).elim, fun ⟨k, hk, _, hn⟩ => ?_⟩
      cases List.mem_singleton.mp hk
      simp [HeldKey.names, inSet, Ne.symm hc] at hn

theorem witness_EveryStepKeepsTheSequencerLaw :
    let s := queued (.tapDeadlineExpiry 350) (held [(true, 0x47)] (.firstTap .firstDown 350) [0x47] 0)
    (∃ t, step s = .next t) ∧ s.hks.SequencerLaw := by
  refine ⟨⟨_, rfl⟩, ?_⟩
  unfold Hks.SequencerLaw; decide

theorem witness_EveryStepKeepsThePowerLaws :
    let r := computer 1 { configured with port := .resuming, remoteWake := true } State.reset
    let s := queued (.deskDeadlineExpiry 15000) { r with wpc := { r.wpc with
      desk := .sleepRequested, awaited := 2, deskDeadline := some 15000
      wakes := r.wpc.wakes.set 1 (some { cause := .desk, start := 0, deadline := 3000 }) } }
    (∃ t, step s = .next t) ∧ s.wpc.DeskRecordLaw ∧ s.WakeAttemptLaw := by
  refine ⟨⟨_, rfl⟩, ?_, ?_⟩
  · unfold Wpc.DeskRecordLaw; decide
  · unfold State.WakeAttemptLaw; decide

theorem witness_EveryStepKeepsTheLinkLaw :
    (∃ t, step (queued (.readDesk 1) fullLink) = .next t) ∧ (queued (.readDesk 1) fullLink).clp.LinkLaw := by
  refine ⟨⟨_, rfl⟩, ?_⟩
  unfold Clp.LinkLaw; decide

/-- One screen placed with a chain of one record. -/
def oneTile : State :=
  tile 10 none ⟨0, 0, 1920, 1080⟩ (single 0) (screen 0 0 0 1920 1080 (some 10) (queued (.frameStart 1 0) State.reset))

theorem oneTile_chains (scr : ScreenId) :
    oneTile.lco.screens[scr].active = (if scr = 0 then some 10 else none) ∧ oneTile.lco.screens[scr].pending = none := by
  revert scr; decide

theorem oneTile_tile (r : TileId) : oneTile.lco.tiles[r] =
    if r = 10 then some { next := none, rect := ⟨0, 0, 1920, 1080⟩, kind := single 0 } else none := by
  show ((Vector.replicate 256 none).set (10 : TileId) (some _))[r] = _
  by_cases h : r = 10
  · subst h; simp
  · have : (10 : TileId).val ≠ r.val := fun e => h (Fin.ext e).symm
    rw [if_neg h, Fin.getElem_fin, Vector.getElem_set_ne _ _ this, Vector.getElem_replicate]

theorem oneTile_lawful : oneTile.lco.CanvasLaw ∧ oneTile.lco.ChainLaw ∧ oneTile.lco.TileLaw := by
  refine ⟨?_, ⟨fun scr start h => ?_, fun r scr other h h' => ?_⟩, fun r t h => ?_⟩
  · unfold Lco.CanvasLaw Rect.Placeable; decide
  · obtain ⟨h1, h2⟩ := oneTile_chains scr
    rw [h1, h2] at h
    by_cases hs : scr = 0
    · subst hs
      rcases h with h | h
      · cases h; exact ⟨_, rfl, by decide, trivial⟩
      · cases h
    · simp [hs] at h
      cases h; unfold Lco.ChainEnds; trivial
  · have hn : ∀ scr : ScreenId, scr ≠ 0 → oneTile.lco.inChains scr r = false := by
      intro scr hs
      obtain ⟨h1, h2⟩ := oneTile_chains scr
      unfold Lco.inChains Lco.activeChain Lco.pendingChain
      rw [h1, h2, if_neg hs]
      rfl
    by_cases hs : scr = 0
    · by_cases ho : other = 0
      · rw [hs, ho]
      · rw [hn other ho] at h'; cases h'
    · rw [hn scr hs] at h; cases h
  · rw [oneTile_tile] at h
    split at h
    · cases h; exact ⟨by decide, by simp [single, TileKind.Lawful]⟩
    · cases h

theorem witness_EveryStepKeepsTheLayoutLaws :
    (∃ t, step oneTile = .next t) ∧ oneTile.lco.CanvasLaw ∧ oneTile.lco.ChainLaw ∧ oneTile.lco.TileLaw :=
  ⟨⟨_, rfl⟩, oneTile_lawful⟩

theorem witness_EveryStepKeepsThePointerOnAScreen :
    (∃ t, step oneTile = .next t) ∧ oneTile.lco.CanvasLaw ∧ oneTile.lco.ChainLaw ∧ oneTile.lco.TileLaw ∧ oneTile.PointerLaw := by
  refine ⟨⟨_, rfl⟩, oneTile_lawful.1, oneTile_lawful.2.1, oneTile_lawful.2.2, ?_⟩
  unfold State.PointerLaw; decide

/-- Empty, not empty, enumerating with the deadline reached and not yet, and not enumerating. -/
theorem witness_DeskPortEnumeration :
    State.reset.diu[0] = .empty ∧ (desk 3 (.pointer 0) State.reset).diu[3] ≠ .empty ∧
    (desk 3 (.enumerating 1000) State.reset).diu[3] = .enumerating 1000 ∧ 1000 ≤ max State.reset.clock 1000 ∧
    ¬ 1000 ≤ max State.reset.clock 999 ∧ ∀ d, State.reset.diu[0] ≠ .enumerating d := by
  refine ⟨by decide, by decide, by decide, by decide, by decide, fun d h => ?_⟩
  cases h

/-- Reports ignored and taken; and, for the order of events, a key broken after one that stays, the last modifier made where none
breaks, a sixth key made among those that stay, a pure reorder, and the first button broken and the last made. -/
theorem witness_DeskReportsBecomeThePreviousReport :
    let clean (list : List Byte) : Prop := list.length ≤ 6 ∧ list.Nodup ∧ ∀ u ∈ list, 4 ≤ u ∧ isModifier u = false
    (clean [4, 5] ∧ clean [4, 6] ∧ ([4, 5] : List Byte) = [4] ++ 5 :: [] ∧ (∀ k ∈ ([4] : List Byte), k ∈ ([4, 6] : List Byte)) ∧
      (5 : Byte) ∉ ([4, 6] : List Byte)) ∧
    ((0x03 &&& ~~~ 0x82 : Byte).getLsbD (0 : Fin 8).val = true ∧ ∀ j < (0 : Fin 8), (0x03 &&& ~~~ 0x82 : Byte).getLsbD j.val = false) ∧
    ((0x03 : Byte) &&& ~~~ 0x83 = 0 ∧ (0x83 &&& ~~~ 0x03 : Byte).getLsbD (7 : Fin 8).val = true ∧
      ∀ j < (7 : Fin 8), (0x83 &&& ~~~ 0x03 : Byte).getLsbD j.val = false) ∧
    (clean [4, 5, 6, 7, 8] ∧ clean [8, 4, 0xFF, 5, 6, 7] ∧ (∀ k ∈ ([4, 5, 6, 7, 8] : List Byte), k ∈ ([8, 4, 0xFF, 5, 6, 7] : List Byte)) ∧
      (∀ k ∈ ([8, 4] : List Byte), k ∈ ([4, 5, 6, 7, 8] : List Byte)) ∧ (0xFF : Byte) ∉ ([4, 5, 6, 7, 8] : List Byte)) ∧
    (clean [5, 4] ∧ (∀ k ∈ ([5, 4] : List Byte), k ∈ ([4, 5] : List Byte)) ∧ ∀ k ∈ ([4, 5] : List Byte), k ∈ ([5, 4] : List Byte)) ∧
    ((0x01 &&& ~~~ 0x10 : Buttons).getLsbD (0 : Fin 5).val = true ∧ (0x01 : Buttons) &&& ~~~ 0x11 = 0 ∧
      (0x11 &&& ~~~ 0x01 : Buttons).getLsbD (4 : Fin 5).val = true ∧ ∀ j < (4 : Fin 5), (0x11 &&& ~~~ 0x01 : Buttons).getLsbD j.val = false) ∧
    twoKeyboards.diu[1] = .keyboard 0x03 [4, 5] ∧ ([3, 0, 4, 5, 0, 0, 0] : List Byte).length < 8 ∧
    (∃ u ∈ ([1, 1, 1, 1, 1, 1] : List Byte), 1 ≤ u ∧ u ≤ 3) ∧ (∀ u ∈ ([4, 5, 0, 0, 0, 0] : List Byte), ¬ (1 ≤ u ∧ u ≤ 3)) ∧
    (([4, 5, 0, 0, 0, 0] : List Byte).filter (fun u => decide (u ≠ 0) && !(decide (0xE0 ≤ u) && decide (u ≤ 0xE7)))).eraseDups =
      [4, 5] ∧
    (desk 0 (.pointer 1) State.reset).diu[0] = .pointer 1 ∧ (0xE1 : Byte).setWidth 5 = (1 : Buttons) ∧
    (isModifier 4 = false ∧ (4 : Byte) ∉ ([5] : List Byte) ∧ (4 : Byte) ∉ ([6] : List Byte)) ∧
    (∀ mods keys, State.reset.diu[0] ≠ .keyboard mods keys) ∧ ∀ b, State.reset.diu[0] ≠ .pointer b := by
  refine ⟨by decide, by decide, by decide, by decide, by decide, by decide, by decide, by decide, by decide, by decide, by decide,
    by decide, by decide, by decide, fun _ _ h => ?_, fun _ h => ?_⟩ <;> cases h

/-- A port with keys down, one with a button down, and ports that hold nothing. -/
theorem witness_DetachForgetsTheDevice :
    State.reset.diu[0] = .empty ∧ twoKeyboards.diu[1] ≠ .empty ∧ (∃ mods keys, twoKeyboards.diu[1] = .keyboard mods keys) ∧
    (∃ b, (desk 2 (.pointer 31) State.reset).diu[2] = .pointer b) ∧ (desk 0 (.keyboard 0 []) State.reset).diu[0] = .keyboard 0 [] ∧
    (desk 0 (.pointer 0) State.reset).diu[0] = .pointer 0 ∧ (∃ d, (desk 0 (.enumerating 5) State.reset).diu[0] = .enumerating d) ∧
    ∃ w, (desk 0 (.unsupported .hub) State.reset).diu[0] = .unsupported w :=
  ⟨by decide, by decide, ⟨0x03, [4, 5], by decide⟩, ⟨31, by decide⟩, by decide, by decide, ⟨5, by decide⟩, ⟨.hub, by decide⟩⟩

/-- A key, and the last modifier; a sixth key among five; a key held by the focus computer; a rule that sends it nowhere; and a
computer asleep. -/
theorem witness_KeysReachAndLeaveTheirDestination :
    let s := desk 0 (.keyboard 0 []) State.reset
    let t := desk 0 (.keyboard 0 [4]) dwelling
    let nowhere : RouteRule := { RouteRule.reset with enabled := true, includeFocus := false }
    (s.diu[0] = .keyboard 0 [] ∧ s.wpc.desk = .awake ∧ s.hks.seq = .idle ∧ s.hks.leader ≠ some 4 ∧ s.hks.leader ≠ some 0xE7 ∧
      (∀ i : Fin 24, s.hks.table[i].enabled = false)) ∧
    ((4 : Byte) ≤ 0xE7 ∧ isModifier 0xE7 = true ∧ (desk 0 (.keyboard 0x80 []) s).diu[0] = .keyboard (1#8 <<< ((0xE7 : Byte).toNat - 0xE0)) []) ∧
    ((desk 0 (.keyboard 3 [5, 6, 7, 8, 9]) s).diu[0] = .keyboard 3 ([5, 6] ++ [7, 8, 9]) ∧
      (([5, 6] ++ 4 :: [7, 8, 9] : List Byte).length ≤ 6 ∧ ([5, 6] ++ 4 :: [7, 8, 9] : List Byte).Nodup ∧
        ∀ k ∈ ([5, 6] ++ 4 :: [7, 8, 9] : List Byte), 4 ≤ k ∧ isModifier k = false) ∧
      (3 : Byte) &&& (1#8 <<< ((0xE7 : Byte).toNat - 0xE0)) = 0) ∧
    (t.diu[0] = .keyboard 0 [4] ∧ t.hks.hold = [] ∧ (0, 4) ∉ t.hks.swallowed ∧ t.KeySetLaw) ∧
    (∃ k ∈ t.rtf.held, k.port = 0 ∧ k.usage = 4) ∧ (∀ k ∈ t.rtf.held, ¬ (k.port = 0 ∧ k.usage = 5)) ∧
    ((s.rtf.rules.set 0 nowhere).toList.find? (fun r => r.enabled && r.ports.getLsbD (0 : DeskPortId).val && decide (r.low ≤ 4) &&
      decide (4 ≤ r.high) && r.cond.met s.deskModifiers)) = some nowhere ∧
    ((computer 0 { fullQueue with queue := [] } s).comp s.fcu.focus).wakeOnInput = true ∧
    ((computer 0 { fullQueue with queue := [] } s).comp s.fcu.focus).port = .suspended :=
  ⟨by decide, by decide, by decide, ⟨by decide, by decide, by decide, witness_EveryStepKeepsThePortLaws.2.2⟩, by decide, by decide, by decide,
    by decide, by decide⟩

/-- A chord entry in the last place of the table, of either kind; a chord withheld; and states for the catalogue of commands: a
computer to each side of the focus, one asleep, one resuming, a preset to follow, and a tile that flips. -/
theorem witness_ChordMakeIsSwallowedAndReported :
    let e (kind : TriggerKind) : HotkeyEntry := { HotkeyEntry.reset with enabled := true, kind := kind, usage := 4, argument := 200 }
    let s := desk 0 (.keyboard 1 []) State.reset
    let chord (kind : TriggerKind) : State := { s with hks := { s.hks with table := s.hks.table.set 23 (e kind) } }
    let withheld := held [(true, 4)] (.chordHeld 23 .hostCode 200) [4] 1
    let c := computer 7 configured (computer 1 { configured with port := .suspended, remoteWake := true }
      (computer 2 { configured with port := .resuming, remoteWake := true } layout))
    let p : Preset := { screens := .replicate 8 .keep, focus := none, next := some 15 }
    ((4 : Byte) ≤ 4 ∧ isModifier 4 = false ∧ s.diu[0] = .keyboard 1 [] ∧ s.wpc.desk = .awake ∧ s.hks.seq = .idle ∧ s.hks.hold = [] ∧
      s.hks.leader ≠ some 4 ∧ (chord .chordBreak).hks.table[(23 : Fin 24)] = e .chordBreak ∧
      (e .chordMake).cond.met (chord .chordMake).deskModifiers = true ∧ (e .chordMake).command = .hostCode ∧
      ∀ j : Fin 24, j < 23 → (chord .chordMake).hks.table[j].enabled = false) ∧
    (withheld.diu[0] = .keyboard 1 [4] ∧ withheld.hks.seq = .chordHeld 23 .hostCode 200 ∧
      withheld.hks.hold = [{ port := 0, make := true, usage := 4 }] ∧ (0, 4) ∉ withheld.hks.swallowed) ∧
    ((∀ d : Comp, d ≠ c.fcu.focus ∧ (c.comp d).port ≠ .detached → (1 - c.fcu.focus).val ≤ (d - c.fcu.focus).val) ∧
      (∀ d : Comp, d ≠ c.fcu.focus ∧ (c.comp d).port ≠ .detached → (c.fcu.focus - 7).val ≤ (c.fcu.focus - d).val) ∧
      (c.comp 1).port = .suspended ∧ (c.comp 2).port = .resuming ∧ (c.comp 2).remoteWake = true ∧ (c.comp 3).port = .detached) ∧
    (∀ n : Comp, ¬ (n ≠ State.reset.fcu.focus ∧ (State.reset.comp n).port ≠ .detached)) ∧ sleeping.wpc.desk ≠ .awake ∧
    layout.lco.presets[(15 : PresetId)] = none ∧ (layout.lco.presets.set (0 : PresetId) (some p))[(0 : PresetId)] ≠ none ∧
    (∀ scr : ScreenId, 30 ∉ layout.lco.activeChain scr) ∧ 10 ∈ layout.lco.activeChain 0 ∧
    layout.lco.tiles[(10 : TileId)] =
      some { next := none, rect := ⟨0, 0, 960, 1080⟩, kind := .single 0 (some 1) .primary false .whole 0 } ∧
    (asking 0x13 [] layout).Asks 0x13 7 [] [] ∧ (asking 0x0E [0] layout).Asks 0x0E 7 [0] [] ∧
    (asking 0x0F [10] layout).Asks 0x0F 7 [10] [] :=
  ⟨by decide, by decide, by decide, by decide, by decide, by decide, by decide, by decide, by decide, by decide, asks _ _ _ (by decide),
    asks _ _ _ (by decide), asks _ _ _ (by decide)⟩

/-- The four steps of the two taps; a first tap that another key fails; and ARMED with a key that an entry names, with one that
none does, and with a modifier at a hold buffer of seven and of eight events. -/
theorem witness_TwoLeaderTapsArmTheSequencer :
    let taps : List (Bool × Byte) := [(true, 0x47), (false, 0x47), (true, 0x47), (false, 0x47)]
    let seven := held (taps ++ [(true, 0xE0), (true, 0xE1), (true, 0xE2)]) (.armed 2280) [] 7
    let eight := held (taps ++ [(true, 0xE0), (true, 0xE1), (true, 0xE2), (true, 0xE3)]) (.armed 2280) [] 15
    ((4 : Byte) ≤ 0x47 ∧ isModifier 0x47 = false ∧ scrollLock.hks.leader = some 0x47 ∧ scrollLock.wpc.desk = .awake ∧
      (0, 0x47) ∉ scrollLock.hks.swallowed ∧ scrollLock.diu[0] = .keyboard 0 [] ∧ scrollLock.hks.hold = [] ∧
      scrollLock.hks.seq = .idle) ∧
    (held [(true, 0x47)] (.firstTap .firstDown 350) [0x47] 0).hks.hold = [{ port := 0, make := true, usage := 0x47 }] ∧
    (held [(true, 0x47), (false, 0x47)] (.firstTap .firstUp 440) [] 0).hks.seq = .firstTap .firstUp 440 ∧
    (held [(true, 0x47), (false, 0x47), (true, 0x47)] (.firstTap .secondDown 550) [0x47] 0).hks.seq = .firstTap .secondDown 550 ∧
    ((held [(true, 0x47), (false, 0x47)] (.firstTap .firstUp 440) [] 0).diu[0] = .keyboard 0 [] ∧
      ¬ (TapPhase.firstUp = .firstUp ∧ (scrollLock.hks.leader = some 4))) ∧
    (scrollLock.hks.table[(0 : Fin 24)].enabled = true ∧ scrollLock.hks.table[(0 : Fin 24)].kind = .sequence ∧
      scrollLock.hks.table[(0 : Fin 24)].usage = 0x1F ∧ scrollLock.hks.table[(0 : Fin 24)].cond.met scrollLock.deskModifiers = true) ∧
    (∀ i : Fin 24, ¬ (scrollLock.hks.table[i].enabled = true ∧ scrollLock.hks.table[i].usage = 0x1E)) ∧
    (seven.hks.hold.length = 7 ∧ seven.diu[0] = .keyboard 7 [] ∧ (7 : Byte).getLsbD 7 = false) ∧
    eight.hks.hold.length = 8 ∧ eight.diu[0] = .keyboard 15 [] ∧ (15 : Byte).getLsbD 3 = true ∧ (0, 0xE0 + byte 3) ∉ eight.hks.swallowed ∧
    ∃ before after, eight.hks.hold = before ++ { port := 0, make := true, usage := 0xE3 } :: after ∧
      ∀ e ∈ after, ¬ (e.port = 0 ∧ e.usage = 0xE3) := by
  intro taps seven eight
  exact ⟨by decide, by decide, by decide, by decide, by decide, by decide, by decide, by decide, by decide, by decide, by decide,
    by decide, eight.hks.hold.take 7, [], by decide, by decide⟩

theorem witness_SequencerDeadlines :
    let s := held [(true, 0x47)] (.firstTap .firstDown 350) [0x47] 0
    let t := computer 0 configured s
    s.hks.seq = .firstTap .firstDown 350 ∧ 350 ≤ max State.reset.clock 350 ∧ max State.reset.clock 349 < 350 ∧
    (t.hks.hold = [{ port := 0, make := true, usage := 0x47 }] ∧ t.rtf.held = [] ∧ (∀ c : Comp, (t.comp c).keySet = []) ∧
      (∀ i : Fin 32, t.rtf.rules[i].enabled = false) ∧ (t.comp t.fcu.focus).port = .configured) ∧
    (held [(true, 0x47)] (.armed 2280) [] 0).hks.seq = .armed 2280 ∧ State.reset.hks.seq = .idle := by decide

/-- The last of each table, an argument at the end of its range, and a rule of one usage. -/
theorem witness_TablesReadBackAsWritten :
    let e : HotkeyEntry := { HotkeyEntry.reset with usage := 0xE7, command := .flip, argument := 255 }
    let fields : List Byte := [23, 0, 0, 0xE7, 0, 0, 0, 0, 5, 255]
    (4 ≤ e.usage ∧ ¬ (e.kind = .sequence ∧ isModifier e.usage = true) ∧ e.argument.toNat < e.command.arguments) ∧
    (asking 0x06 fields State.reset).Asks 0x06 7 fields [] ∧ (asking 0x1E [1, 23] State.reset).Asks 0x1E 7 [1, 23] [] ∧
    State.reset.hks.table[(23 : Fin 24)] = HotkeyEntry.reset ∧ State.reset.rtf.rules[(31 : Fin 32)] = RouteRule.reset ∧
    RouteRule.reset.low ≤ RouteRule.reset.high ∧ (asking 0x1E [0, 31] State.reset).Asks 0x1E 7 [0, 31] [] :=
  ⟨by decide, asks _ _ _ (by decide), asks _ _ _ (by decide), by decide, by decide, by decide, asks _ _ _ (by decide)⟩

/-- The ends of the refused range, a leader of none in ARMED and in IDLE, and a leader in FIRST TAP. -/
theorem witness_HotkeyTimingIsClamped :
    (asking 0x05 [0, 100, 0, 0xFF, 0xFF] State.reset).Asks 0x05 7 [0, 100, 0, 0xFF, 0xFF] [] ∧
    ((1 : Byte) ≤ 3 ∧ (3 : Byte) ≤ 3) ∧ ¬ ((1 : Byte) ≤ 4 ∧ (4 : Byte) ≤ 3) ∧ ¬ ((1 : Byte) ≤ 0 ∧ (0 : Byte) ≤ 3) ∧
    (held [(true, 0x47)] (.armed 2280) [] 0).hks.seq = .armed 2280 ∧ State.reset.hks.seq = .idle ∧
    (held [(true, 0x47)] (.firstTap .firstDown 350) [0x47] 0).hks.seq = .firstTap .firstDown 350 :=
  ⟨asks _ _ _ (by decide), by decide, by decide, by decide, by decide, by decide, by decide⟩

/-- The dwell's target by glide; another computer by force under HARD; and each clause of SET FOCUS. -/
theorem witness_SetFocusIsJudged :
    (asking 0x10 [0, 0] State.reset).Asks 0x10 7 [0, 0] [] ∧ State.reset.fcu.focus = 0 ∧ State.reset.fcu.lock ≠ .hard ∧
    State.reset.ptu.dwell ≠ 0 ∧ ({ State.reset.fcu with lock := .hard } : Fcu).lock = .hard ∧ State.reset.fcu.focus ≠ 7 ∧
    (asking 0x10 [7, 1] State.reset).Asks 0x10 7 [7, 1] [] ∧
    (dwelling.fcu.focus ≠ 1 ∧ dwelling.fcu.pending.map Pending.target = some 1 ∧ dwelling.fcu.lock ≠ .hard ∧ dwelling.ptu.dwell ≠ 0 ∧
      dwelling.KeySetLaw) :=
  ⟨asks _ _ _ (by decide), by decide, by decide, by decide, by decide, by decide, asks _ _ _ (by decide),
    by decide, by decide, by decide, by decide, witness_EveryStepKeepsThePortLaws.2.2⟩

/-- A dwell setting other than 0; and one of 0 with the pointer over another computer, over the pending target, and over none. -/
theorem witness_ReevaluationDecidesDwell :
    let over1 := pointerAt 1940 500 0 0 grid
    grid.ptu.dwell ≠ 0 ∧ ({ over1.ptu with dwell := 0 } : Ptu).dwell = 0 ∧ over1.hitTest.2.map Hit.target = some 1 ∧
    over1.fcu.focus ≠ 1 ∧ over1.fcu.lock = .none ∧ over1.fcu.guard = none ∧ over1.fcu.park = none ∧ over1.fcu.pending = none ∧
    dwelling.fcu.pending.map Pending.target = some 1 ∧ (edges 1845 500 0 0).hitTest.2 = none := by
  refine ⟨by decide, by decide, by decide +kernel, by decide, by decide, by decide, by decide, by decide, by decide, by decide +kernel⟩

theorem witness_GuardAndDwellDeadlines :
    ({ State.reset.fcu with guard := some 200 } : Fcu).guard = some 200 ∧ 200 ≤ max State.reset.clock 200 ∧
    State.reset.fcu.guard = none ∧ State.reset.fcu.pending = none ∧ dwelling.fcu.pending = some { target := 1, deadline := 60 } ∧
    max State.reset.clock 59 < 60 ∧ 60 ≤ max State.reset.clock 60 ∧ dwelling.fcu.PendingTargetLaw ∧ dwelling.ptu.dwell ≠ 0 :=
  ⟨by decide, by decide, by decide, by decide, by decide, by decide, by decide, witness_EveryStepKeepsTheFocusLaws.2.1, by decide⟩

theorem witness_SetLockWritesTheLock :
    (asking 0x11 [1] State.reset).Asks 0x11 7 [1] [] ∧ (asking 0x11 [0] State.reset).Asks 0x11 7 [0] [] ∧
    (asking 0x11 [2] State.reset).Asks 0x11 7 [2] [] ∧ (asking 0x11 [] State.reset).Asks 0x11 7 [] [] ∧
    State.reset.fcu.lock ≠ .hard ∧ ({ State.reset.fcu with lock := .hard } : Fcu).lock = .hard :=
  ⟨asks _ _ _ (by decide), asks _ _ _ (by decide), asks _ _ _ (by decide), asks _ _ _ (by decide), by decide, by decide⟩

theorem witness_ReadFocusGivesTheRecord :
    (asking 0x1A [] State.reset).Asks 0x1A 7 [] [] ∧ (asking 0x1A [0] State.reset).Asks 0x1A 7 [0] [] :=
  ⟨asks _ _ _ (by decide), asks _ _ _ (by decide)⟩

theorem witness_DeskRecordsAndTheHardLockHold :
    let s := State.reset
    (∃ r, exec (.dwellDeadlineExpiry 60) { s with fcu := { s.fcu with lock := .hard } } = .next r) ∧
    ({ s.fcu with lock := .hard } : Fcu).lock = .hard ∧ writesDeskPorts (.dwellDeadlineExpiry 60) = false ∧
    mayUnlock (.dwellDeadlineExpiry 60) = false := ⟨⟨_, rfl⟩, by decide, by decide, by decide⟩

theorem witness_SetPointerWritesAndReads :
    (asking 0x04 [] State.reset).Asks 0x04 7 [] [] ∧
    (asking 0x04 [64, 0xF4, 1, 0xE8, 3] State.reset).Asks 0x04 7 [64, 0xF4, 1, 0xE8, 3] [] ∧
    (asking 0x04 [1] State.reset).Asks 0x04 7 [1] [] :=
  ⟨asks _ _ _ (by decide), asks _ _ _ (by decide), asks _ _ _ (by decide)⟩

/-- Rows 1 and 5 of the worked example: a movement off the screen's left edge, and one past its bottom edge. -/
theorem witness_MovementStaysOnPlacedScreens :
    let s := edges 1925 1300 (-10) 5
    s.diu[0] = .pointer ((0 : Byte).setWidth 5) ∧ s.wpc.desk ≠ .asleep ∧ ¬ ((0xF3 : Byte) = 0 ∧ (3 : Byte) = 0) ∧
    s.lco.CanvasLaw ∧ s.lco.screens[(1 : ScreenId)].placed = true ∧
    s.lco.screens[(1 : ScreenId)].rect.contains s.ptu.px s.ptu.py = true := by
  refine ⟨by decide, by decide, by decide, ?_, by decide, by decide⟩
  unfold Lco.CanvasLaw Rect.Placeable; decide

theorem witness_MotionReportsToTheFocusComputer :
    let s := desk 0 (.pointer 0) (pointerAt 900 500 0 0 grid)
    s.diu[0] = .pointer ((0 : Byte).setWidth 5) ∧ s.wpc.desk = .awake ∧ ¬ ((1 : Byte) = 0 ∧ (0 : Byte) = 0) ∧
    (({ s.at 1 with ptu := s.moved (max (-127) (1 : Byte).toInt) (max (-127) (0 : Byte).toInt) } : State).hitTest.2.map Hit.target =
      some s.fcu.focus) ∧
    ({ edges 1845 500 0 0 with ptu := (edges 1845 500 0 0).moved 1 0 } : State).hitTest.2 = none := by
  refine ⟨by decide, by decide, by decide, by decide +kernel, by decide +kernel⟩

/-- The pointer at the corners of a screen: over no tile, FILL, SINGLE with its PRIMARY and its ALTERNATE, and a GRID's cells. -/
theorem witness_CellsAndAbsolutePositionsAreExact :
    let rect : Rect := ⟨10, 20, 7, 5⟩
    let fill : Tile := { next := none, rect := ⟨0, 0, 1920, 1080⟩, kind := .fill { red := 1, green := 2, blue := 3 } }
    let alternate : TileKind := .single 0 (some 4) .alternate false .whole 0
    let corner := pointerAt 1919 1079 0 0 grid
    (1 ≤ 4 ∧ 4 ≤ rect.w ∧ 4 ≤ rect.h ∧ rect.contains 16 24 = true ∧ 16383 < 16384 ∧ 16384 ≤ 16384) ∧
    (State.reset.lco.heads[(0 : HeadId)].owner = none ∧ grid.lco.heads[(4 : HeadId)].owner = some 1) ∧
    (corner.lco.screens[(0 : ScreenId)].placed = true ∧
      corner.lco.screens[(0 : ScreenId)].rect.contains corner.ptu.px corner.ptu.py = true ∧
      corner.lco.activeChain 0 = [] ++ 10 :: [] ∧
      corner.lco.tiles[(10 : TileId)] = some { next := none, rect := ⟨0, 0, 1920, 1080⟩, kind := single 0 } ∧
      fill.rect.contains 1919 1079 = true) ∧
    ((tile 10 fill.next fill.rect fill.kind corner).lco.tiles[(10 : TileId)] = some fill ∧
      ((tile 10 none fill.rect alternate corner).lco.tiles[(10 : TileId)]).map Tile.kind = some alternate) ∧
    (grid.lco.activeChain 1 = [] ++ 20 :: [] ∧ (grid.lco.tiles[(20 : TileId)]).map Tile.kind =
        some (.grid 2 2 [some 4, some 5, some 6, none] 0) ∧
      cellAt ⟨0, 0, 2560, 1440⟩ 2 2 1280 719 = 1 ∧ cellAt ⟨0, 0, 2560, 1440⟩ 2 2 2559 1439 = 3) ∧
    State.reset.lco.activeChain 0 = [] ∧ corner.lco.CanvasLaw := by
  refine ⟨by decide, by decide, by decide +kernel, by decide +kernel, by decide +kernel, by decide, ?_⟩
  unfold Lco.CanvasLaw Rect.Placeable; decide

theorem witness_WheelGoesToTheFocusComputer :
    (desk 0 (.pointer 31) State.reset).diu[0] = .pointer ((0xFF : Byte).setWidth 5) ∧ State.reset.wpc.desk ≠ .asleep ∧
    (0x80 : Byte) ≠ 0 := by decide

/-- A make with no pending target, with one (click-to-focus) and beside other buttons, by a computer asleep; a break that is stale,
the last of the desk's buttons under SOFT, and one that leaves others held. -/
theorem witness_ButtonsLockAndRelease :
    let s := desk 3 (.pointer 0) State.reset
    let t := desk 3 (.pointer 16) State.reset
    s.diu[3] = .pointer 0 ∧ s.wpc.desk = .awake ∧ s.fcu.pending = none ∧
    ((desk 3 (.pointer 0) dwelling).diu[3] = .pointer 0 ∧ dwelling.fcu.pending = some { target := 1, deadline := 60 } ∧
      dwelling.wpc.desk = .awake) ∧
    (((computer 0 { fullQueue with queue := [] } s).comp s.fcu.focus).port = .suspended ∧ fullQueue.wakeOnInput = true) ∧
    ((0 : Buttons).getLsbD (4 : Fin 5).val = false ∧ (15 : Buttons).getLsbD (4 : Fin 5).val = false ∧
      (desk 3 (.pointer 15) State.reset).diu[3] = .pointer 15) ∧
    (t.diu[3] = .pointer 16 ∧ (16 : Buttons).getLsbD (4 : Fin 5).val = true ∧ (31 : Buttons).getLsbD (4 : Fin 5).val = true) ∧
    ((s.ptu.stale.set 3 16)[(3 : DeskPortId)].getLsbD (4 : Fin 5).val = true ∧ s.deskButtons = 0 ∧
      ({ t.fcu with lock := .soft } : Fcu).lock = .soft) := by decide

theorem witness_PortTakesWhatItIsHanded :
    Computer.reset.port.accepting = false ∧ fullQueue.port.accepting = true ∧
    fullQueue.lastSnapshot = some (snapshotOf [4]) ∧ fullQueue.lastSnapshot ≠ some (snapshotOf []) ∧
    16 ≤ fullQueue.queue.length ∧ configured.queue.length < 16 ∧
    fullQueue.queue = List.replicate 15 (.keyboard (snapshotOf [4])) ++ [.pointer { buttons := 0, ax := 1020, ay := 2000 } 0] ∧
    (∀ q v, Entry.pointer q v ∉ List.replicate 15 (Entry.keyboard (snapshotOf [4]))) ∧
    fullQueue.lastPointer = some { buttons := 0, ax := 1020, ay := 2000 } := by
  refine ⟨by decide, by decide, by decide, by decide, by decide, by decide, rfl, fun q v h => ?_, by decide⟩
  cases List.eq_of_mem_replicate h

/-- A port in each of its six states, and the configuration number 2. -/
theorem witness_BusEventsMoveThePort :
    let s := computer 1 { configured with port := .resuming } (computer 2 { configured with port := .default }
      (computer 3 configured (computer 4 { configured with port := .suspended } State.reset)))
    (s.comp 0).port = .detached ∧ (s.comp 1).port = .resuming ∧ (s.comp 2).port = .default ∧ (s.comp 3).port = .configured ∧
    (s.comp 4).port = .suspended ∧ (2 : Byte) ≠ 0 ∧ (2 : Byte) ≠ 1 := by decide

theorem witness_PortChangeIsToldInOrder :
    let s := computer 1 configured State.reset
    let s := { s with wpc := { s.wpc with desk := .sleepRequested, awaited := 2 } }
    (s.comp 1).port ≠ .suspended ∧ s.wpc.desk = .sleepRequested ∧ s.wpc.awaited.getLsbD (1 : Comp).val = true ∧
    (∀ d : Comp, s.wpc.awaited.getLsbD d.val = true → d = 1) ∧ (State.reset.comp 1).port ≠ .powered := by decide

theorem witness_FollowOnsLeaveTheRest : layout.ptu.dwell ≠ 0 := by decide

theorem witness_PollSendsTheOldestEntry :
    let r : Computer := { fullQueue with port := .configured, owedKeyboard := true, owedPointer := true }
    Computer.reset.port ≠ .configured ∧ r.port = .configured ∧ 16 ≤ r.queue.length ∧ (r.queue.drop 1).length < 16 ∧
    r.lastSnapshot ≠ some (snapshotOf r.keySet) ∧ r.lastSnapshot = some (snapshotOf [4]) ∧
    r.queue.drop 1 = List.replicate 14 (.keyboard (snapshotOf [4])) ++ [.pointer { buttons := 0, ax := 1020, ay := 2000 } 0] ∧
    r.lastPointer = some { buttons := 0, ax := 1020, ay := 2000 } ∧ configured.lastPointer = none := by
  refine ⟨by decide, by decide, by decide, by decide, by decide, by decide, rfl, by decide, by decide⟩

/-- The extents at both ends of their range, and one past it. -/
theorem witness_ComputersAreWrittenAndRead :
    (asking 0x01 [7, 0, 0x40, 1, 0, 7] State.reset).Asks 0x01 7 [7, 0, 0x40, 1, 0, 7] [] ∧
    (asking 0x01 [7, 0, 0, 1, 0, 7] State.reset).Asks 0x01 7 [7, 0, 0, 1, 0, 7] [] ∧
    (asking 0x17 [7] State.reset).Asks 0x17 7 [7] [] :=
  ⟨asks _ _ _ (by decide), asks _ _ _ (by decide), asks _ _ _ (by decide)⟩

/-- An owner with four heads elsewhere, no owner, an offset at its limit and one past it. -/
theorem witness_HeadsAreWrittenAndRead :
    (asking 0x02 [15, 7, 0xFF, 0x3F, 0, 0] State.reset).Asks 0x02 7 [15, 7, 0xFF, 0x3F, 0, 0] [] ∧
    (asking 0x02 [15, 0xFF, 0, 0x40, 0, 0] State.reset).Asks 0x02 7 [15, 0xFF, 0, 0x40, 0, 0] [] ∧
    (let s := head 6 7 640 480 0 (head 7 7 640 480 0 (head 8 7 640 480 0 (head 9 7 640 480 0 State.reset)))
     4 ≤ (List.finRange 16).countP (fun g => decide (g ≠ 15) && decide (s.lco.heads[g].owner = some 7))) ∧
    State.reset.lco.heads[(15 : HeadId)].owner ≠ some 7 ∧ (asking 0x1B [15] State.reset).Asks 0x1B 7 [15] [] :=
  ⟨asks _ _ _ (by decide), asks _ _ _ (by decide), by decide, by decide, asks _ _ _ (by decide)⟩

/-- A screen at the canvas's far corner, an overlapping one, one screen alone that would be unplaced, and the pointer off every
screen. -/
theorem witness_ScreensArePlacedAndRead :
    let far : List Byte := [7, 1, 0x00, 0x38, 0x00, 0x3B, 0x00, 0x08, 0x00, 0x05, 0, 1, 2, 3]
    (asking 0x03 far State.reset).Asks 0x03 7 far [] ∧ (⟨14336, 15104, 2048, 1280⟩ : Rect).Placeable ∧
    ¬ (⟨14337, 15104, 2048, 1280⟩ : Rect).Placeable ∧
    (⟨14336, 15104, 2048, 1280⟩ : Rect).overlaps State.reset.lco.screens[(0 : ScreenId)].rect = false ∧
    (⟨1919, 0, 1920, 1080⟩ : Rect).overlaps State.reset.lco.screens[(0 : ScreenId)].rect = true ∧
    (∀ o : ScreenId, o ≠ 0 → ((unplaced 7 (unplaced 6 (unplaced 5 (unplaced 4 (unplaced 3 (unplaced 2 (unplaced 1
      State.reset))))))).lco.screens[o]).placed = false) ∧
    oneTile.lco.screens[(0 : ScreenId)].active ≠ none ∧
    State.reset.lco.screens[(0 : ScreenId)].rect.contains 1919 1079 = true ∧
    ¬ (pointerAt 0 1080 0 0 State.reset).PointerLaw ∧ (asking 0x18 [7] State.reset).Asks 0x18 7 [7] [] := by
  refine ⟨asks _ _ _ (by decide), ?_, ?_, by decide, by decide, by decide, by decide, by decide, ?_, asks _ _ _ (by decide)⟩
  · unfold Rect.Placeable; decide
  · unfold Rect.Placeable; decide
  · unfold State.PointerLaw; decide

/-- A tile record at its limits, free; and one in a chain. -/
theorem witness_TilesAreWrittenReadAndFreed :
    let fill : List Byte := [255, 2, 0xFF, 0xFF, 0, 0, 0, 0, 0, 10, 0x40, 6, 1, 2, 3]
    let t : Tile := { next := none, rect := ⟨0, 0, 2560, 1600⟩, kind := .fill { red := 1, green := 2, blue := 3 } }
    t.Lawful ∧ t.flipWaits = false ∧ (∀ p f v b, t.kind ≠ .single p none .alternate f v b) ∧
    (asking 0x0A fill State.reset).Asks 0x0A 7 fill [] ∧ (∀ scr : ScreenId, State.reset.lco.inChains scr 255 = false) ∧
    oneTile.lco.inChains 0 10 = true ∧ (asking 0x0B [255] State.reset).Asks 0x0B 7 [255] [] ∧
    (asking 0x19 [255] State.reset).Asks 0x19 7 [255] [] ∧ State.reset.lco.tiles[(255 : TileId)] = none ∧
    oneTile.lco.tiles[(10 : TileId)] = some { next := none, rect := ⟨0, 0, 1920, 1080⟩, kind := single 0 } := by
  refine ⟨⟨by decide, trivial⟩, by decide, fun _ _ _ _ h => ?_, asks _ _ _ (by decide), by decide, by decide,
    asks _ _ _ (by decide), asks _ _ _ (by decide), by decide, oneTile_tile 10⟩
  cases h

/-- The 33rd record of a chain that is a loop, a first record that is FREE, one of another screen's chains after one that passes, and
one too wide for its screen. -/
theorem witness_SetChainWalksTheChain_failures :
    let passes (l : Lco) (scr : ScreenId) (path : List TileId) (r : TileId) : Prop := ∀ i q, path[i]? = some q →
      ¬ (∃ other : ScreenId, other ≠ scr ∧ l.inChains other q = true) ∧
      ∃ tile, l.tiles[q] = some tile ∧ tile.rect.within l.screens[scr].rect.w l.screens[scr].rect.h = true ∧
        tile.next = (path ++ [r])[i + 1]?
    let loop := (tile 50 (some 50) ⟨0, 0, 640, 480⟩ (single 0) layout).lco
    let wide := (tile 51 none ⟨0, 0, 1921, 480⟩ (single 0) layout).lco
    passes loop 0 (List.replicate 32 50) 50 ∧ passes layout.lco 1 [31] 10 ∧ passes wide 0 [] 51 ∧
    (∃ other : ScreenId, other ≠ 1 ∧ layout.lco.inChains other 10 = true) ∧ layout.lco.tiles[(10 : TileId)] ≠ none ∧
    layout.lco.tiles[(52 : TileId)] = none ∧ wide.tiles[(51 : TileId)] = some ⟨none, ⟨0, 0, 1921, 480⟩, single 0⟩ ∧
    (¬ ∃ other : ScreenId, other ≠ 0 ∧ wide.inChains other 51 = true) ∧
    (⟨0, 0, 1921, 480⟩ : Rect).within wide.screens[(0 : ScreenId)].rect.w wide.screens[(0 : ScreenId)].rect.h = false := by
  refine ⟨fun i q h => ?_, fun i q h => ?_, fun i q h => ?_, ⟨0, by decide, by decide⟩, by decide, by decide, by decide,
    by decide, by decide⟩
  · rw [List.getElem?_replicate] at h
    split at h
    · cases h
      refine ⟨by decide, _, rfl, by decide, ?_⟩
      rw [show List.replicate 32 (50 : TileId) ++ [50] = List.replicate 33 50 from rfl, List.getElem?_replicate, if_pos (by omega)]
    · cases h
  · match i with
    | 0 => cases h; exact ⟨by decide, _, rfl, by decide, rfl⟩
    | _ + 1 => cases h
  · cases h

/-- A screen in STANDBY with a lawful canvas, the pointer on it, and no flip waiting. -/
theorem witness_SetChainWalksTheChain_atOnce :
    let s := power 0 (.standby false) oneTile
    s.wpc.power[(0 : ScreenId)] = .standby false ∧ s.lco.screens[(0 : ScreenId)].placed = true ∧
    s.lco.checkChain 0 (some 10) = none ∧ s.lco.CanvasLaw ∧ s.PointerLaw ∧
    ∀ q ∈ s.lco.chain (some 10) ++ s.lco.activeChain 0, ∀ tile, s.lco.tiles[q] = some tile → tile.flipWaits = false := by
  refine ⟨by decide, by decide, by decide, oneTile_lawful.1, witness_EveryStepKeepsThePointerOnAScreen.2.2.2.2, fun q _ tile h => ?_⟩
  have h : oneTile.lco.tiles[q] = some tile := h
  rw [oneTile_tile] at h
  split at h <;> cases h
  rfl

theorem witness_SetChainWalksTheChain :
    (asking 0x0C [0, 0, 1] layout).Asks 0x0C 7 [0, 0, 1] [] ∧ (256 ≤ 0 + 256 * 1) ∧
    (asking 0x0C [0, 0xFF, 0xFF] layout).Asks 0x0C 7 [0, 0xFF, 0xFF] [] ∧
    (unplaced 2 layout).lco.screens[(2 : ScreenId)].placed = false ∧ layout.lco.screens[(0 : ScreenId)].placed = true ∧
    layout.lco.checkChain 0 (some 30) = none ∧ layout.lco.checkChain 1 (some 31) = some (.ownedElsewhere, 10) ∧
    layout.wpc.power[(0 : ScreenId)] = .active ∧ (power 0 (.standby false) layout).wpc.power[(0 : ScreenId)] = .standby false := by
  refine ⟨asks _ _ _ (by decide), by decide, asks _ _ _ (by decide), by decide, by decide, by decide, by decide, by decide, by decide⟩

/-- A pending chain, and a flip alone, at a frame start; and a SINGLE tile whose flip waits. -/
theorem witness_FrameStartsApplyWhatWaits :
    let flipping := tile 10 none ⟨0, 0, 960, 1080⟩ (.single 0 (some 1) .primary true .whole 0) layout
    (layout.wpc.power[(0 : ScreenId)] = .active ∧ (power 0 (.standby false) layout).wpc.power[(0 : ScreenId)] = .standby false ∧
      layout.lco.screens[(0 : ScreenId)].pending = none) ∧
    (∀ r ∈ layout.lco.activeChain 0, ¬ ∃ t, layout.lco.tiles[r] = some t ∧ t.flipWaits = true) ∧
    (flipping.lco.screens[(0 : ScreenId)].pending = none ∧
      ∃ r ∈ flipping.lco.activeChain 0, ∃ t, flipping.lco.tiles[r] = some t ∧ t.flipWaits = true) ∧
    (pendingChain 0 (some 31) layout).lco.screens[(0 : ScreenId)].pending = some (some 31) ∧
    ((pendingChain 0 (some 31) layout).lco.chain (some 31)).Nodup ∧ layout.ptu.dwell ≠ 0 ∧
    (asking 0x0F [10] layout).Asks 0x0F 7 [10] [] ∧
    (layout.lco.tiles[(10 : TileId)] =
        some { next := none, rect := ⟨0, 0, 960, 1080⟩, kind := .single 0 (some 1) .primary false .whole 0 } ∧
      10 ∈ layout.lco.activeChain 0 ∧ (∀ o : ScreenId, o < 0 → 10 ∉ layout.lco.activeChain o) ∧
      ∀ scr : ScreenId, 30 ∉ layout.lco.activeChain scr) := by
  refine ⟨by decide, fun r hr ht => ?_, ⟨by decide, 10, by decide, _, rfl, by decide⟩, by decide, by decide, by decide,
    asks _ _ _ (by decide), by decide⟩
  obtain ⟨t, ht, hf⟩ := ht
  have h : ∀ r ∈ layout.lco.activeChain 0, (layout.lco.tiles[r]).all (fun t => !t.flipWaits) = true := by decide +kernel
  have := h r hr
  rw [ht] at this
  simp [hf] at this

/-- A pixel on the last row of a focus border and on the first past it; a crop past its head; FILL; a GRID's head and EMPTY cells;
and a pixel of no tile. -/
theorem witness_FramesDrawTilesAndBorders :
    let s := head 0 0 1920 1080 0 (tile 10 none ⟨0, 0, 1920, 1080⟩ (.single 0 (some 4) .primary false .whole 8) oneTile)
    (asking 0x08 [1, 2, 3, 4, 5, 6, 7, 8, 9] State.reset).Asks 0x08 7 [1, 2, 3, 4, 5, 6, 7, 8, 9] [] ∧
    (s.lco.activeChain 0 = [] ++ 10 :: [] ∧ (⟨0, 0, 1920, 1080⟩ : Rect).contains 1919 1079 = true ∧
      s.lco.heads[(0 : HeadId)].size = some (1920, 1080) ∧ (⟨0, 0, 1920, 1080⟩ : Rect).nearEdge 8 7 500 = true ∧
      (⟨0, 0, 1920, 1080⟩ : Rect).nearEdge 8 8 500 = false ∧ s.lco.heads[(0 : HeadId)].owner = some s.fcu.focus ∧
      s.fcu.lock = .none) ∧
    (grid.lco.tiles[(20 : TileId)]).map Tile.kind = some (.grid 2 2 [some 4, some 5, some 6, none] 0) ∧
    ([some 4, some 5, some 6, none] : List (Option HeadId))[cellAt ⟨0, 0, 2560, 1440⟩ 2 2 2559 1439]? = some none ∧
    ([some 4, some 5, some 6, none] : List (Option HeadId))[cellAt ⟨0, 0, 2560, 1440⟩ 2 2 0 720]? = some (some 6) ∧
    ((tile 10 none ⟨0, 0, 9, 9⟩ (.fill { red := 1, green := 2, blue := 3 }) s).lco.tiles[(10 : TileId)]).map Tile.kind =
      some (.fill { red := 1, green := 2, blue := 3 }) ∧
    (⟨0, 0, 9, 9⟩ : Rect).contains 9 8 = false ∧ oneTile.lco.TileLaw :=
  ⟨asks _ _ _ (by decide), by decide, by decide, by decide, by decide, by decide, by decide, oneTile_lawful.2.2⟩

theorem witness_PresetsReadBackAsWritten :
    let p : Preset := { screens := .replicate 8 .keep, focus := some 7, next := none }
    let fields : List Byte := [15, 0xFE, 0xFF, 0xFE, 0xFF, 0xFE, 0xFF, 0xFE, 0xFF, 0xFE, 0xFF, 0xFE, 0xFF, 0xFE, 0xFF, 0xFE, 0xFF, 7, 0xFF]
    let s := State.reset
    (asking 0x0D fields s).Asks 0x0D 7 fields [] ∧ (asking 0x0D [15] s).Asks 0x0D 7 [15] [] ∧
    (asking 0x1E [2, 15] s).Asks 0x1E 7 [2, 15] [] ∧ s.lco.presets[(15 : PresetId)] = none ∧
    (s.lco.presets.set (15 : PresetId) (some p))[(15 : PresetId)] = some p :=
  ⟨asks _ _ _ (by decide), asks _ _ _ (by decide), asks _ _ _ (by decide), by decide, by decide⟩

/-- One screen in a preset; a record that two screens name, of which the first takes it. -/
theorem witness_ApplyPresetTakesItsScreens :
    let p : Preset := { screens := (Vector.replicate 8 .keep).set 7 (.chain none), focus := none, next := none }
    let two : Preset := { screens := ((Vector.replicate 8 .keep).set 0 (.chain (some 30))).set 1 (.chain (some 30)),
                          focus := none, next := none }
    (asking 0x0E [15] State.reset).Asks 0x0E 7 [15] [] ∧ State.reset.lco.presets[(15 : PresetId)] = none ∧
    (∀ scr : ScreenId, scr ≠ 7 → p.screens[scr] = .keep) ∧ p.screens[(7 : ScreenId)] = .chain none ∧
    State.reset.lco.screens[(7 : ScreenId)].placed = true ∧ State.reset.lco.checkChain 7 none = none ∧
    layout.lco.checkChain 1 (some 31) = some (.ownedElsewhere, 10) ∧ State.reset.wpc.power[(7 : ScreenId)] = .darkHold 30000 ∧
    (two.screens[(0 : ScreenId)] = .chain (some 30) ∧ two.screens[(1 : ScreenId)] = .chain (some 30) ∧
      (∀ o : ScreenId, o ≠ 0 → o ≠ 1 → two.screens[o] = .keep) ∧ layout.lco.screens[(0 : ScreenId)].placed = true ∧
      layout.lco.screens[(1 : ScreenId)].placed = true ∧ layout.lco.checkChain 0 (some 30) = none ∧
      layout.wpc.power[(0 : ScreenId)] = .active) :=
  ⟨asks _ _ _ (by decide), by decide, by decide, by decide, by decide, by decide, by decide, by decide, by decide⟩

theorem witness_SetPowerTimingWritesAndReads :
    (asking 0x09 [] State.reset).Asks 0x09 7 [] [] ∧
    (asking 0x09 [0, 0, 0, 0, 0, 0] State.reset).Asks 0x09 7 [0, 0, 0, 0, 0, 0] [] ∧
    (asking 0x09 [1] State.reset).Asks 0x09 7 [1] [] :=
  ⟨asks _ _ _ (by decide), asks _ _ _ (by decide), asks _ _ _ (by decide)⟩

theorem witness_WakesAreAttemptedAndExpire :
    let s := computer 1 { configured with port := .suspended, remoteWake := true } (computer 2 { configured with port := .suspended }
      (computer 3 { configured with port := .resuming, remoteWake := true } State.reset))
    (asking 0x12 [1] s).Asks 0x12 7 [1] [] ∧ (s.comp 1).remoteWake = true ∧ (s.comp 2).remoteWake = false ∧
    (s.comp 3).port = .resuming ∧ (s.comp 4).port = .detached ∧ s.wpc.wakes[(3 : Comp)] = none ∧
    (s.wpc.wakes.set (3 : Comp) (some { cause := .host, start := 0, deadline := 3000 }))[(3 : Comp)] =
      some { cause := .host, start := 0, deadline := 3000 } ∧
    3000 ≤ max s.clock 3000 ∧ max s.clock 2999 < 3000 :=
  ⟨asks _ _ _ (by decide), by decide, by decide, by decide, by decide, by decide, by decide, by decide, by decide⟩

theorem witness_DeskSleepsAndWakes :
    let s := computer 0 { configured with sleepsWithDesk := true, queue := List.replicate 14 (.system .none) } State.reset
    (asking 0x13 [] s).Asks 0x13 7 [] [] ∧ (asking 0x14 [] s).Asks 0x14 7 [] [] ∧ s.wpc.desk = .awake ∧ sleeping.wpc.desk ≠ .awake ∧
    (∀ c : Comp, (1 : CompSet).getLsbD c.val = (decide ((s.comp c).port = .configured) && (s.comp c).sleepsWithDesk)) ∧
    (∀ c : Comp, (s.comp c).queue.length ≤ 14) ∧ (∀ c : Comp, (State.reset.comp c).sleepsWithDesk = false) ∧
    ({ s.wpc with desk := .sleepRequested, deskDeadline := some 15000 } : Wpc).deskDeadline = some 15000 ∧
    15000 ≤ max s.clock 15000 ∧ ¬ 15000 ≤ max s.clock 14999 :=
  ⟨asks _ _ _ (by decide), asks _ _ _ (by decide), by decide, by decide, by decide, by decide, by decide, by decide, by decide, by decide⟩

theorem witness_DarknessMovesThePowerState :
    State.reset.dark 5 = true ∧ State.reset.wpc.power[(5 : ScreenId)] = .darkHold 30000 ∧ State.reset.wpc.standbyHold ≠ 0 ∧
    State.reset.wpc.desk ≠ .asleep ∧ sleeping.wpc.desk = .asleep ∧ layout.dark 0 = false ∧
    layout.wpc.power[(0 : ScreenId)] = .active ∧ sleeping.wpc.power[(0 : ScreenId)] = .standby true ∧
    (power 0 (.standby false) layout).wpc.power[(0 : ScreenId)] = .standby false ∧ sleeping.dark 0 = true ∧
    ({ sleeping.wpc with standbyHold := 0 } : Wpc).standbyHold = 0 ∧ (∀ forced, Power.active ≠ .standby forced) ∧
    State.reset.lco.screens[(5 : ScreenId)].pending = none ∧ State.reset.lco.activeChain 5 = [] ∧
    (pendingChain 5 none State.reset).lco.screens[(5 : ScreenId)].pending = some none ∧ State.reset.ptu.dwell ≠ 0 ∧
    30000 ≤ max State.reset.clock 30000 ∧ max State.reset.clock 29999 < 30000 := by
  refine ⟨by decide, by decide, by decide, by decide, by decide, by decide, by decide, by decide, by decide, by decide, by decide,
    fun _ h => ?_, by decide, by decide, by decide, by decide, by decide, by decide⟩
  cases h

/-- Movements of 3 and of 4; the last button beside the others; a key between two others in a full report; the last modifier; and
a sleep to cancel with room for the two codes. -/
theorem witness_TheGateWakesTheDesk :
    let r := computer 0 { configured with queue := List.replicate 14 (.system .none) } State.reset
    (sleeping.wpc.desk = .asleep ∧ (desk 1 (.pointer 0) sleeping).diu[1] = .pointer ((0 : Byte).setWidth 5) ∧
      (max (-127) (2 : Byte).toInt).natAbs + (max (-127) (0xFF : Byte).toInt).natAbs < 4 ∧
      4 ≤ (max (-127) (2 : Byte).toInt).natAbs + (max (-127) (0xFE : Byte).toInt).natAbs) ∧
    ((desk 3 (.pointer 15) sleeping).diu[3] = .pointer 15 ∧ (15 : Buttons).getLsbD (4 : Fin 5).val = false) ∧
    ((desk 0 (.keyboard 1 ([4, 5] ++ [6, 7, 8])) sleeping).diu[0] = .keyboard 1 ([4, 5] ++ [6, 7, 8]) ∧
      (([4, 5] ++ 0xFF :: [6, 7, 8] : List Byte).length ≤ 6 ∧ ([4, 5] ++ 0xFF :: [6, 7, 8] : List Byte).Nodup ∧
        ∀ k ∈ ([4, 5] ++ 0xFF :: [6, 7, 8] : List Byte), 4 ≤ k ∧ isModifier k = false)) ∧
    (sleeping.diu[0] = .keyboard 0 [] ∧ ([] : List Byte).length ≤ 6 ∧ ([] : List Byte).Nodup ∧ (0 : Byte).getLsbD (7 : Fin 8).val = false) ∧
    (({ r.wpc with desk := .sleepRequested, awaited := 1 } : Wpc).desk = .sleepRequested ∧ ∀ c : Comp, (r.comp c).queue.length ≤ 14) ∧
    State.reset.wpc.desk = .awake := by decide

theorem witness_ThePanelBusRunsItsTransactions :
    let s := panels .pressSeen (.read 1)
    let rescan := after (.scanPanels 1) (asking 0x15 [] (panels .held (.probe 2)))
    let two : Panel := { Panel.found 0 with buttons := ((Vector.replicate 8 .released).set 0 .pressSeen).set 7 .pressSeen }
    State.reset.psc.scanner = .scanning 0 ∧ s.psc.scanner = .idle ∧ State.reset.psc.bus = some (.probe 0) ∧ (0 : Fin 4).val < 3 ∧
    (asking 0x15 [] s).Asks 0x15 7 [] [] ∧ s.psc.bus = some (.read 1) ∧ (s.psc.panels[1]?).isSome = true ∧
    (s.psc.panels[1]?).map (fun p => p.buttons[(4 : Fin 8)]) = some .pressSeen ∧ (0xEF : Byte).getLsbD (4 : Fin 8).val = false ∧
    (∀ b : Fin 8, b ≠ 4 → (0xEF : Byte).getLsbD b.val = true) ∧ s.fcu.focus ≠ 4 ∧ s.fcu.lock ≠ .hard ∧ s.ptu.dwell ≠ 0 ∧
    (∀ p ∈ s.psc.panels, ¬ (p.present = true ∧ p.readDue = true)) ∧
    (panels .held (.write 0 0xFF 4 false)).psc.bus = some (.write 0 0xFF 4 false) ∧
    (rescan.psc.bus = some (.earlierProbe 2) ∧ rescan.psc.scanner = .scanning 0) ∧
    ([0, 1, 2, 3, 4, 5, 6, 7] : List (Fin 8)).filter (fun b => decide (two.buttons[b] = .pressSeen ∧ (0x7E : Byte).getLsbD b.val = false)) =
      [0, 7] :=
  ⟨by decide, by decide, by decide, by decide, asks _ _ _ (by decide), by decide, by decide, by decide, by decide, by decide, by decide,
    by decide, by decide, by decide, by decide, by decide, by decide⟩

theorem witness_TicksAndDeskReads :
    let s := panels .released (.read 0)
    (max s.clock 10 - s.epoch) % 10 = 0 ∧ (max s.clock 9 - s.epoch) % 10 ≠ 0 ∧ s.psc.scanner = .idle ∧
    (max s.clock 250 - s.epoch) % 250 = 0 ∧ (∃ c : Comp, ((computer 4 { configured with port := .suspended } s).comp c).port = .suspended) ∧
    (asking 0x1D [] s).Asks 0x1D 7 [] [] ∧ (asking 0x1C [] s).Asks 0x1C 7 [] [] :=
  ⟨by decide, by decide, by decide, by decide, ⟨4, by decide⟩, asks _ _ _ (by decide), asks _ _ _ (by decide)⟩

/-- Each state of a transaction; three bytes and two; and a frame clocked whole and short. -/
theorem witness_SpiTransactionsMoveFrames :
    let clp (spi : Spi) : Clp := { Clp.reset with spi := spi }
    State.reset.clp.spi = .idle ∧ (clp (.selected 3)).spi = .selected 3 ∧ (clp (.putting true)).spi = .putting true ∧
    (clp (.putting false)).spi = .putting false ∧ (clp (.taking none true)).spi = .taking none true ∧
    (State.reset.clp.inbound.length < 4 ∧ State.reset.clp.outbound.length + State.reset.clp.inbound.length < 32) ∧
    ¬ (fullLink.clp.outbound.length + fullLink.clp.inbound.length < 32) ∧
    (clp (.taking (some ⟨0x40, 0, [0]⟩) true)).spi = .taking (some ⟨0x40, 0, [0]⟩) true ∧
    ([0x1C, 9, 0] : List Byte) = 0x1C :: 9 :: 0 :: [] ∧ ([0x1C, 9] : List Byte).length < 3 := by decide

theorem witness_NoticesAreQueuedOrLost :
    State.reset.clp.outbound.length + State.reset.clp.places < 32 ∧ 32 ≤ fullLink.clp.outbound.length + fullLink.clp.places := by
  decide

theorem witness_RefusedRequestsChangeNothing :
    (asking 0x1F [] State.reset).clp.inbound = { kind := 0x1F, tag := 7, lengthByte := 0, body := [], count := 0 } :: [] ∧
    (0x1E < (0x1F : Byte)) ∧ (1 ≤ (0x1E : Byte) ∧ (0x1E : Byte) ≤ 0x1E) ∧ requestKind (.setLock 1) = some 0x11 ∧
    60 < (byte 61).toNat ∧ (∀ r rest, State.reset.clp.inbound = r :: rest → r.kind ≠ 0x11) ∧
    ∃ t, exec (.setLock 1) (asking 0x11 [2] State.reset) = .next t ∧
      t.clp.outbound = State.reset.clp.outbound ++ [{ kind := 0x91, tag := 7, payload := [4] }] := by
  refine ⟨by decide, by decide, by decide, by decide, by decide, fun r rest h => ?_, ⟨_, rfl, by decide⟩⟩
  cases h

/-- A computer with a key and a button, one with neither, and the panel bus free and not. -/
theorem witness_RestartReturnsTheRuntimeValues :
    let s := computer 3 { configured with keySet := [4], lastPointer := some { buttons := 1, ax := 0, ay := 32767 } } layout
    (asking 0x16 [] layout).Asks 0x16 7 [] [] ∧ (asking 0x16 [0] layout).Asks 0x16 7 [0] [] ∧ layout.ptu.dwell ≠ 0 ∧
    ((unplaced 0 State.reset).lco.screens[(1 : ScreenId)].placed = true ∧
      ∀ o : ScreenId, o < 1 → (unplaced 0 State.reset).lco.screens[o].placed = false) ∧
    ((s.comp 3).keySet ≠ [] ∧ (s.comp 3).lastPointer.map PointerState.buttons = some 1 ∧ (s.comp 2).keySet = [] ∧
      (s.comp 2).lastPointer = none) ∧
    s.psc.bus ≠ none ∧ ({ s.psc with bus := none } : Psc).bus = none ∧ sleeping.wpc.desk = .asleep ∧
    (sleeping.lco.screens[(0 : ScreenId)].placed = true ∧ ∀ o : ScreenId, ¬ o < 0) :=
  ⟨asks _ _ _ (by decide), asks _ _ _ (by decide), by decide, by decide, by decide, by decide, by decide, by decide, by decide⟩

end Sys2Proof.Tests
end

section
/-! The snapshot of a key set (R49), bit by bit of its modifier set and slot by slot. -/

namespace Sys2Proof.Machine

/-! ### The modifier set -/

/-- The modifiers are the eight usages 0xE0 to 0xE7, counted from the first. -/
theorem isModifier_iff (u : Byte) : isModifier u = true ↔ ∃ i : Fin 8, u = 0xE0 + BitVec.ofNat 8 i.val := by
  constructor
  · intro hu
    have hrange : 0xE0 ≤ u ∧ u ≤ 0xE7 := by simpa [isModifier] using hu
    have hlow : 0xE0 ≤ u.toNat := hrange.1
    have hhigh : u.toNat ≤ 0xE7 := hrange.2
    exact ⟨⟨u.toNat - 0xE0, by omega⟩, by bv_omega⟩
  · rintro ⟨i, rfl⟩
    revert i
    decide

/-- The modifier of index j sets bit j and no other. -/
theorem getLsbD_modifierBit : ∀ i j : Fin 8,
    (modifierBit (0xE0 + BitVec.ofNat 8 j.val)).getLsbD i.val =
      decide (0xE0 + BitVec.ofNat 8 j.val = (0xE0 + BitVec.ofNat 8 i.val : Byte)) := by
  decide

/-- A bit of a fold of ORs is set where it is set at the start or by one of the elements. -/
theorem getLsbD_foldl_or {α : Type} {w : Nat} (f : α → BitVec w) (n : Nat) (l : List α) (acc : BitVec w) :
    (l.foldl (fun acc u => acc ||| f u) acc).getLsbD n = (acc.getLsbD n || l.any (fun u => (f u).getLsbD n)) := by
  induction l generalizing acc with
  | nil => simp
  | cons u l ih => simp [ih, Bool.or_assoc]

/-- Among the modifiers of a list, bit i is set by the modifier of index i alone. -/
theorem any_modifierBit (usages : List Byte) (i : Fin 8) :
    (usages.filter isModifier).any (fun u => (modifierBit u).getLsbD i.val) =
      usages.contains (0xE0 + BitVec.ofNat 8 i.val) := by
  rw [Bool.eq_iff_iff, List.any_eq_true, List.contains_iff_mem]
  constructor
  · rintro ⟨u, hu, hbit⟩
    obtain ⟨hmem, hmod⟩ := List.mem_filter.mp hu
    obtain ⟨j, rfl⟩ := (isModifier_iff u).mp hmod
    rw [getLsbD_modifierBit] at hbit
    exact of_decide_eq_true hbit ▸ hmem
  · intro hmem
    have hmod : isModifier (0xE0 + BitVec.ofNat 8 i.val) = true := (isModifier_iff _).mpr ⟨i, rfl⟩
    exact ⟨_, List.mem_filter.mpr ⟨hmem, hmod⟩, (getLsbD_modifierBit i i).trans (decide_eq_true rfl)⟩

theorem getLsbD_modifierSet (usages : List Byte) (i : Fin 8) :
    (modifierSet usages).getLsbD i.val = usages.contains (0xE0 + BitVec.ofNat 8 i.val) := by
  rw [modifierSet, getLsbD_foldl_or, any_modifierBit]
  simp only [BitVec.ofNat_eq_ofNat, BitVec.getLsbD_zero, Bool.false_or]

/-! ### The six slots -/

/-- Reading the first n places of a list of at most n elements, with a default past its end, pads it to n. -/
theorem map_getD_range {α : Type} (l : List α) (a : α) {n : Nat} (h : l.length ≤ n) :
    (List.range n).map (fun i => l.getD i a) = l ++ List.replicate (n - l.length) a := by
  refine List.ext_getElem (by simp; omega) fun i _ _ => ?_
  by_cases hi : i < l.length
  · simp [List.getElem_append_left, hi]
  · simp [List.getElem_append_right, Nat.le_of_not_lt hi]

/-- The slots hold the usages that are no modifiers, then 0x00; or the rollover marker where there are more than six. -/
theorem snapshotOf_slots (keySet : List Byte) :
    let keys := keySet.filter (fun u => !isModifier u)
    (snapshotOf keySet).slots.toList =
      if keys.length ≤ 6 then keys ++ List.replicate (6 - keys.length) 0x00 else List.replicate 6 0x01 := by
  intro keys
  have hslots : (snapshotOf keySet).slots.toList =
      (List.range 6).map (fun i => if keys.length ≤ 6 then keys.getD i 0x00 else 0x01) := rfl
  rw [hslots]
  split
  case isTrue hfit => exact map_getD_range keys 0x00 hfit
  case isFalse => rfl

/-- Settles O21: the modifier set by its bits, the slots by the padding of the other usages. -/
theorem snapshotOfAKeySet : Obligations.SnapshotOfAKeySet := by
  unfold Obligations.SnapshotOfAKeySet
  exact fun keySet => ⟨getLsbD_modifierSet keySet, snapshotOf_slots keySet⟩

end Sys2Proof.Machine
end

section
/-! The Focus Unit's requests: SET LOCK (R74 to R76), from what setting and clearing the hard lock do in each lock, and READ
FOCUS (R77), field by field of the focus record. -/

namespace Sys2Proof.Machine

variable {s : State} {tag : Byte} {payload : List Byte} {rest : List Request}

/-! ### The hard lock -/

theorem State.setHard_of_hard (h : s.fcu.lock = .hard) : s.setHard = s := if_pos h

/-- R74: HARD from NONE or SOFT clears the pending target and gives the notice. -/
theorem State.setHard_of_not_hard (h : s.fcu.lock ≠ .hard) :
    s.setHard = (s.setFcu { s.fcu with lock := .hard, pending := none }).notify
      (.focus s.fcu.focus s.fcu.focus lockCauseByte .hard s.fcu.park.isSome) := if_neg h

theorem State.setHard_lock (s : State) : s.setHard.fcu.lock = .hard := by
  by_cases h : s.fcu.lock = .hard
  · rw [State.setHard_of_hard h, h]
  · rw [State.setHard_of_not_hard h, State.notify_fcu, State.setFcu_fcu]

/-- R75: leaving HARD gives the notice of the lock that is left. -/
theorem State.clearHard_of_hard (h : s.fcu.lock = .hard) :
    s.clearHard = (s.setFcu { s.fcu with lock := s.lockOnLeavingHard }).notify
      (.focus s.fcu.focus s.fcu.focus lockCauseByte s.lockOnLeavingHard s.fcu.park.isSome) := if_pos h

theorem State.clearHard_of_not_hard (h : s.fcu.lock ≠ .hard) : s.clearHard = s := if_neg h

/-! ### SET LOCK -/

theorem requestSetLock_hard (s : State) : requestSetLock [1] s = (s.setHard, .okWith [Lock.hard.code]) := by
  rw [← s.setHard_lock]
  rfl

theorem requestSetLock_none (s : State) : requestSetLock [0] s = (s.clearHard, .okWith [s.clearHard.fcu.lock.code]) := rfl

theorem requestSetLock_badValue {b : Byte} (h0 : b ≠ 0) (h1 : b ≠ 1) (s : State) :
    requestSetLock [b] s = (s, .bare .badValue) := by
  have hflag : flag (at8 [b] 0) = none := (if_neg h0).trans (if_neg h1)
  simp only [requestSetLock, List.length_singleton, ne_eq, not_true_eq_false, if_false, hflag]

theorem requestSetLock_badLength (h : payload.length ≠ 1) (s : State) :
    requestSetLock payload s = (s, .bare .badLength) := if_pos h

/-- SET LOCK is answered with what its owning block makes of the payload: setting a lock leaves the inbound queue. -/
theorem exec_setLock_of_asks (h : s.Asks 0x11 tag payload rest) (t : Time) {u : State} {rep : Reply}
    (ho : requestSetLock payload (s.at t) = (u, rep)) :
    exec (.setLock t) s = .next (u.answered 0x11 tag rest (rep.status.code :: rep.data)) := by
  have hmoves : Moves [.lock] (s.at t) (requestSetLock payload (s.at t)).1 := requestSetLock_moves payload _ (by decide)
  rw [ho] at hmoves
  obtain ⟨hinbound, -⟩ := hmoves.inbound (by decide) (by decide)
  exact congrArg Host.Outcome.next (execute_asks h (by decide) t requestSetLock ho hinbound)

/-- Settles O25, by the byte of the payload and the lock it meets. -/
theorem setLockWritesTheLock : Obligations.SetLockWritesTheLock := by
  unfold Obligations.SetLockWritesTheLock
  intro t s tag payload rest hasks f left
  refine ⟨max s.clock t, le_max_left _ _, ?_, ?_, ?_, ?_, ?_, ?_⟩
  · rintro rfl hlock
    rw [exec_setLock_of_asks hasks t (requestSetLock_hard _), State.setHard_of_not_hard (s := s.at t) hlock]
    rfl
  · rintro rfl hlock
    rw [exec_setLock_of_asks hasks t (requestSetLock_hard _), State.setHard_of_hard (s := s.at t) hlock]
    rfl
  · rintro rfl hlock
    rw [exec_setLock_of_asks hasks t (requestSetLock_none _), State.clearHard_of_hard (s := s.at t) hlock]
    rfl
  · rintro rfl hlock
    rw [exec_setLock_of_asks hasks t (requestSetLock_none _), State.clearHard_of_not_hard (s := s.at t) hlock]
    rfl
  · rintro b rfl h0 h1
    exact exec_setLock_of_asks hasks t (requestSetLock_badValue h0 h1 _)
  · intro hlength
    exact exec_setLock_of_asks hasks t (requestSetLock_badLength hlength _)

/-! ### READ FOCUS -/

/-- A record index takes one byte: the high byte of a chain start is 0. -/
theorem startField_some (r : TileId) : startField (some r) = [byte r.val, 0] := by
  simp only [startField, le16, Nat.div_eq_of_lt r.isLt, byte, BitVec.ofNat_eq_ofNat]

theorem parkBytes_none : parkBytes none = [0xFF, 0xFF, 0xFF, 0xFF] := rfl

theorem readWhole_empty (bytes : List Byte) : readWhole bytes [] = .okWith bytes := rfl

theorem readWhole_badLength (bytes : List Byte) (h : payload ≠ []) : readWhole bytes payload = .bare .badLength := if_pos h

/-- READ FOCUS is answered from the focus record, which it leaves. -/
theorem exec_readFocus_of_asks (h : s.Asks 0x1A tag payload rest) (t : Time) :
    exec (.readFocus t) s = .next ((s.at t).answered 0x1A tag rest
      ((readWhole s.fcu.bytes payload).status.code :: (readWhole s.fcu.bytes payload).data)) :=
  congrArg Host.Outcome.next (execute_asks_same h (by decide) t requestReadFocus rfl)

/-- Settles O26: each field's bytes by the field's cases. -/
theorem readFocusGivesTheRecord : Obligations.ReadFocusGivesTheRecord := by
  unfold Obligations.ReadFocusGivesTheRecord
  intro t s tag payload rest hasks lock pending park cause
  refine ⟨max s.clock t, le_max_left _ _, ?_, ?_⟩
  · intro hpayload
    rw [exec_readFocus_of_asks hasks, readWhole_badLength _ hpayload]
    rfl
  · rintro rfl
    have hlock : s.fcu.lock.code = lock := by
      simp only [lock]
      cases s.fcu.lock <;> rfl
    have hpending : compByte (s.fcu.pending.map Pending.target) = pending := by
      simp only [pending]
      cases s.fcu.pending <;> rfl
    have hpark : parkBytes s.fcu.park = park := by
      simp only [park]
      obtain _ | ⟨screen, _ | record, cell⟩ := s.fcu.park
      · exact parkBytes_none
      · rfl
      · exact congrArg (byte screen.val :: · ++ _) (startField_some record)
    have hcause : s.fcu.lastCause.code = cause := by
      simp only [cause]
      cases s.fcu.lastCause <;> rfl
    rw [exec_readFocus_of_asks hasks, readWhole_empty, Reply.okWith, Fcu.bytes, hlock, hpending, hpark, hcause]
    rfl

end Sys2Proof.Machine
end

section
/-! SET POINTER (R81), from what its owning block makes of each length of payload, and the wheel report (R95), from the report
of a port whose buttons stay as they are and from the desk sleep gate, which stops a wheel event in ASLEEP alone. -/

namespace Sys2Proof.Machine

variable {s : State} {tag : Byte} {payload : List Byte} {rest : List Request}

/-! ### Clamps -/

theorem clampNat_eq_max_min {a b : Nat} (h : a ≤ b) (n : Nat) : clampNat a b n = max a (min b n) := by
  unfold clampNat
  split_ifs <;> omega

theorem clampNat_zero (b n : Nat) : clampNat 0 b n = min b n := by
  rw [clampNat_eq_max_min (Nat.zero_le b), Nat.zero_max]

/-! ### SET POINTER -/

/-- R81: the clamped settings are those that the payload's fields give. -/
theorem State.writePointer_fields (a d0 d1 g0 g1 : Byte) (s : State) :
    s.writePointer [a, d0, d1, g0, g1] = s.setPtu { s.ptu with
      speed := max 1 (min 64 a.toNat), dwell := min 500 (d0.toNat + 256 * d1.toNat),
      guard := min 1000 (g0.toNat + 256 * g1.toNat) } := by
  rw [← clampNat_eq_max_min (by decide), ← clampNat_zero, ← clampNat_zero]
  rfl

theorem requestSetPointer_empty (s : State) : requestSetPointer [] s = (s, .okWith s.pointerBytes) := rfl

theorem requestSetPointer_fields (a d0 d1 g0 g1 : Byte) (s : State) :
    requestSetPointer [a, d0, d1, g0, g1] s =
      (s.writePointer [a, d0, d1, g0, g1], .okWith (s.writePointer [a, d0, d1, g0, g1]).pointerBytes) := rfl

theorem requestSetPointer_badLength (hempty : payload ≠ []) (hlength : payload.length ≠ 5) (s : State) :
    requestSetPointer payload s = (s, .bare .badLength) := (if_neg hempty).trans (if_pos hlength)

/-- SET POINTER is answered with what its owning block makes of the payload: the settings lie outside the link. -/
theorem exec_setPointer_of_asks (h : s.Asks 0x04 tag payload rest) (t : Time) {u : State} {rep : Reply}
    (ho : requestSetPointer payload (s.at t) = (u, rep)) :
    exec (.setPointer t) s = .next (u.answered 0x04 tag rest (rep.status.code :: rep.data)) := by
  have hmoves : Moves [.write] (s.at t) (requestSetPointer payload (s.at t)).1 := requestSetPointer_moves (by decide) payload _
  rw [ho] at hmoves
  obtain ⟨hinbound, -⟩ := hmoves.inbound (by decide) (by decide)
  exact congrArg Host.Outcome.next (execute_asks h (by decide) t requestSetPointer ho hinbound)

/-- Settles O28, by the length of the payload. -/
theorem setPointerWritesAndReads : Obligations.SetPointerWritesAndReads := by
  unfold Obligations.SetPointerWritesAndReads
  intro t s tag payload rest hasks values
  have hvalues (u : State) : 0 :: u.pointerBytes = values u.ptu := by
    simp only [values, State.pointerBytes, State.hitComputer]
    cases u.ptu.hit <;> rfl
  refine ⟨max s.clock t, le_max_left _ _, ?_, ?_, ?_⟩
  · rintro rfl
    rw [exec_setPointer_of_asks hasks t (requestSetPointer_empty _)]
    exact congrArg (fun data => Host.Outcome.next ((s.at t).answered 0x04 tag rest data)) (hvalues (s.at t))
  · rintro a d0 d1 g0 g1 rfl ptu
    rw [exec_setPointer_of_asks hasks t (requestSetPointer_fields a d0 d1 g0 g1 _), State.writePointer_fields]
    exact congrArg (fun data => Host.Outcome.next (((s.at t).setPtu ptu).answered 0x04 tag rest data))
      (hvalues ((s.at t).setPtu ptu))
  · intro hempty hlength
    exact exec_setPointer_of_asks hasks t (requestSetPointer_badLength hempty hlength _)

/-! ### The wheel -/

theorem deskCount_zero : deskCount 0 = 0 := by decide

/-- R9: only the count 0 is reduced to 0. -/
theorem deskCount_ne_zero {w : Byte} (h : w ≠ 0) : deskCount w ≠ 0 := by
  have hw : w.toInt ≠ 0 := fun h0 => h (BitVec.eq_of_toInt_eq h0)
  unfold deskCount
  omega

/-- No button of a set is missing from the same set, so a report that repeats the buttons held makes no button event. -/
theorem buttonList_unchanged (held : Buttons) : buttonList (held &&& ~~~ held) = [] := by
  rw [BitVec.and_not_self]
  rfl

/-- R158: the gate passes a wheel event, and does nothing for it, in every desk state but ASLEEP. -/
theorem State.gate_wheel (h : s.wpc.desk ≠ .asleep) (p : DeskPortId) (amount : Int) :
    s.gate (.wheel p amount) = (s, true) := by
  unfold State.gate
  cases hdesk : s.wpc.desk with
  | awake => rfl
  | sleepRequested => rfl
  | asleep => exact absurd hdesk h

theorem State.handOn_wheel (h : s.wpc.desk ≠ .asleep) (p : DeskPortId) (amount : Int) :
    s.handOn (.wheel p amount) = s.reportToFocus amount := by
  unfold State.handOn
  rw [State.gate_wheel h]
  rfl

/-- R10: a report with the buttons held, no movement and a wheel amount makes the wheel event alone. -/
theorem State.takeMoveReport_wheel {amount : Int} (h : amount ≠ 0) (p : DeskPortId) (held : Buttons) (s : State) :
    s.takeMoveReport p held { buttons := held, dx := 0, dy := 0, wheel := amount } = s.handOn (.wheel p amount) := by
  simp only [State.takeMoveReport, and_self, if_true, buttonList_unchanged, List.foldl_nil, if_neg h]

theorem State.pointerReport_wheel {p : DeskPortId} {b w : Byte} (hport : s.diu[p] = .pointer (b.setWidth 5)) (hw : w ≠ 0) :
    s.pointerReport p [b, 0, 0, w] = s.handOn (.wheel p (deskCount w)) := by
  have hreduce : reduceMove [b, 0, 0, w] =
      some { buttons := b.setWidth 5, dx := 0, dy := 0, wheel := deskCount w } := rfl
  unfold State.pointerReport
  rw [hport, hreduce]
  exact State.takeMoveReport_wheel (deskCount_ne_zero hw) p _ s

theorem State.at_reportPosition (s : State) (t : Time) : (s.at t).reportPosition = s.reportPosition := rfl

/-- Settles O32: the report is one wheel event, which the gate passes; R91's position by the pointer state last sent and the
hit target. -/
theorem wheelGoesToTheFocusComputer : Obligations.WheelGoesToTheFocusComputer := by
  unfold Obligations.WheelGoesToTheFocusComputer
  intro t p b w s hport hdesk hw f position
  have hposition : s.reportPosition = position := by
    simp only [State.reportPosition, position, f]
    cases (s.comp s.fcu.focus).lastPointer with
    | some last => rfl
    | none => cases s.ptu.hit <;> rfl
  have hreport : (s.at t).pointerReport p [b, 0, 0, w] = (s.at t).reportToFocus (deskCount w) := by
    rw [State.pointerReport_wheel (s := s.at t) hport hw, State.handOn_wheel (s := s.at t) hdesk]
  refine ⟨max s.clock t, le_max_left _ _, congrArg Host.Outcome.next ?_⟩
  rw [hreport, State.reportToFocus, State.at_reportPosition, hposition]
  rfl

end Sys2Proof.Machine
end

section
/-! What a computer port does with what it is handed (R111, R113 to R115, R117): one equation for each way a snapshot, a pointer
report and a SYSTEM entry can be taken, from what the fold does with a queue's youngest entry and the displacement with its
oldest POINTER entry. -/

namespace Sys2Proof.Machine

variable {r : Computer}

/-! ### Room and the merge count -/

theorem Computer.hasRoom_of_lt (h : r.queue.length < 16) : r.hasRoom = true := decide_eq_true h

theorem Computer.hasRoom_of_le (h : 16 ≤ r.queue.length) : r.hasRoom = false := decide_eq_false (Nat.not_lt.mpr h)

/-! ### Keyboard snapshots -/

section
variable {snap : Snapshot}

theorem Computer.takeSnapshot_of_not_accepting (ha : r.port.accepting = false) (snap : Snapshot) :
    r.takeSnapshot snap = r := by
  simp only [Computer.takeSnapshot, ha, Bool.not_false, if_true]

/-- R113: a snapshot equal to the last queued one is not queued. -/
theorem Computer.takeSnapshot_of_equal (heq : r.lastSnapshot = some snap) : r.takeSnapshot snap = r := by
  simp only [Computer.takeSnapshot, if_pos heq, ite_self]

/-- R113: past the two drops, a snapshot is queued or owed. -/
theorem Computer.takeSnapshot_of_differs (ha : r.port.accepting = true) (hne : r.lastSnapshot ≠ some snap) :
    r.takeSnapshot snap = if r.hasRoom then
      { r with queue := r.queue ++ [.keyboard snap], lastSnapshot := some snap, owedKeyboard := false }
    else { r.addMerge with owedKeyboard := true } := by
  simp only [Computer.takeSnapshot, ha, Bool.not_true, Bool.false_eq_true, if_false, if_neg hne]

theorem Computer.takeSnapshot_of_room (ha : r.port.accepting = true) (hne : r.lastSnapshot ≠ some snap)
    (hroom : r.queue.length < 16) :
    r.takeSnapshot snap =
      { r with queue := r.queue ++ [.keyboard snap], lastSnapshot := some snap, owedKeyboard := false } := by
  rw [Computer.takeSnapshot_of_differs ha hne, if_pos (Computer.hasRoom_of_lt hroom)]

theorem Computer.takeSnapshot_of_full (ha : r.port.accepting = true) (hne : r.lastSnapshot ≠ some snap)
    (hfull : 16 ≤ r.queue.length) : r.takeSnapshot snap = { r.addMerge with owedKeyboard := true } := by
  rw [Computer.takeSnapshot_of_differs ha hne, Computer.hasRoom_of_le hfull]
  rfl

end

/-! ### The fold -/

theorem clampInt_eq_max_min {a b : Int} (h : a ≤ b) (n : Int) : clampInt a b n = max a (min b n) := by
  unfold clampInt
  split_ifs <;> omega

/-- The converse of `youngest_eq`: the last entry of a queue is its youngest. -/
theorem youngest_append (older : List Entry) (e : Entry) : youngest (older ++ [e]) = some (older, e) := by
  induction older with
  | nil => rfl
  | cons a older ih =>
    cases older with
    | nil => rfl
    | cons b older => exact congrArg (Option.map _) ih

/-- R114: the youngest entry of the queue is a POINTER entry of the report's buttons. -/
def Folds (queue : List Entry) (p : PointerState) : Prop :=
  ∃ older q v, queue = older ++ [.pointer q v] ∧ q.buttons = p.buttons

theorem foldInto_append {q p : PointerState} (hbuttons : q.buttons = p.buttons) (older : List Entry) (v w : Int) :
    foldInto (older ++ [.pointer q v]) p w = some (older ++ [.pointer p (max (-127) (min 127 (v + w)))]) := by
  rw [← clampInt_eq_max_min (by decide)]
  simp only [foldInto, youngest_append, if_pos hbuttons]

/-- The fold fails on every queue but those of `Folds`. -/
theorem foldInto_of_not_folds {queue : List Entry} {p : PointerState} (h : ¬ Folds queue p) (w : Int) :
    foldInto queue p w = none := by
  unfold foldInto
  split
  · next older q v hyoungest => exact if_neg fun hbuttons => h ⟨older, q, v, youngest_eq hyoungest, hbuttons⟩
  · rfl

/-! ### Pointer reports -/

section
variable {p : PointerState} {w : Int}

theorem Computer.takePointer_of_not_accepting (ha : r.port.accepting = false) (p : PointerState) (w : Int) :
    r.takePointer p w = r := by
  simp only [Computer.takePointer, ha, Bool.not_false, if_true]

/-- R114, the dedup: the state last sent, with no wheel, is not sent again. -/
theorem Computer.takePointer_of_same (hsame : w = 0 ∧ r.lastPointer = some p) : r.takePointer p w = r := by
  simp only [Computer.takePointer, if_pos hsame, ite_self]

/-- R114: past the dedup, a report is folded, queued or owed. -/
theorem Computer.takePointer_of_not_same (ha : r.port.accepting = true) (hnew : ¬ (w = 0 ∧ r.lastPointer = some p)) :
    r.takePointer p w = r.placePointer p w := by
  simp only [Computer.takePointer, ha, Bool.not_true, Bool.false_eq_true, if_false, if_neg hnew]

theorem Computer.placePointer_of_folds {older : List Entry} {q : PointerState} {v : Int}
    (hqueue : r.queue = older ++ [.pointer q v]) (hbuttons : q.buttons = p.buttons) (w : Int) :
    r.placePointer p w = { r with
      queue := older ++ [.pointer p (max (-127) (min 127 (v + w)))], lastPointer := some p, owedPointer := false } := by
  simp only [Computer.placePointer, hqueue, foldInto_append hbuttons]

theorem Computer.placePointer_of_room (hfold : ¬ Folds r.queue p) (hroom : r.queue.length < 16) (w : Int) :
    r.placePointer p w =
      { r with queue := r.queue ++ [.pointer p w], lastPointer := some p, owedPointer := false } := by
  simp only [Computer.placePointer, foldInto_of_not_folds hfold, Computer.hasRoom_of_lt hroom, if_true]

theorem Computer.placePointer_of_full (hfold : ¬ Folds r.queue p) (hfull : 16 ≤ r.queue.length) (w : Int) :
    r.placePointer p w = { r.addMerge with lastPointer := some p, owedPointer := true } := by
  simp only [Computer.placePointer, foldInto_of_not_folds hfold, Computer.hasRoom_of_le hfull, Bool.false_eq_true, if_false]

end

/-! ### SYSTEM entries -/

section
variable {code : SystemCode}

/-- An entry of another kind stays in front of what is left of the rest. -/
theorem dropOldestPointer_cons {e : Entry} (he : ∀ q v, .pointer q v ≠ e) (rest : List Entry) :
    dropOldestPointer (e :: rest) = (dropOldestPointer rest).map (e :: ·) := by
  cases e with
  | pointer q v => exact absurd rfl (he q v)
  | keyboard snap => rfl
  | system code => rfl

theorem dropOldestPointer_append {before : List Entry} (hbefore : ∀ q v, .pointer q v ∉ before) (q : PointerState) (v : Int)
    (after : List Entry) : dropOldestPointer (before ++ .pointer q v :: after) = some (before ++ after) := by
  induction before with
  | nil => rfl
  | cons e before ih =>
    simp only [List.mem_cons, not_or] at hbefore
    rw [List.cons_append, dropOldestPointer_cons fun q v => (hbefore q v).1, ih fun q v => (hbefore q v).2]
    rfl

theorem dropOldestPointer_of_no_pointer {queue : List Entry} (h : ∀ q v, .pointer q v ∉ queue) :
    dropOldestPointer queue = none := by
  induction queue with
  | nil => rfl
  | cons e queue ih =>
    simp only [List.mem_cons, not_or] at h
    rw [dropOldestPointer_cons fun q v => (h q v).1, ih fun q v => (h q v).2, Option.map_none]

theorem Computer.takeSystem_of_not_accepting (ha : r.port.accepting = false) (code : SystemCode) :
    r.takeSystem code = (r, false) := by
  simp only [Computer.takeSystem, ha, Bool.not_false, if_true]

theorem Computer.takeSystem_of_room (ha : r.port.accepting = true) (hroom : r.queue.length < 16) (code : SystemCode) :
    r.takeSystem code = ({ r with queue := r.queue ++ [.system code] }, false) := by
  simp only [Computer.takeSystem, ha, Computer.hasRoom_of_lt hroom, Bool.not_true, Bool.false_eq_true, if_false, if_true]

/-- R115: in a full queue the entry takes the place of the oldest POINTER entry, which becomes owed. -/
theorem Computer.takeSystem_of_displaced {queue : List Entry} (ha : r.port.accepting = true) (hfull : 16 ≤ r.queue.length)
    (hdrop : dropOldestPointer r.queue = some queue) (code : SystemCode) :
    r.takeSystem code = ({ r.addMerge with queue := queue ++ [.system code], owedPointer := true }, false) := by
  simp only [Computer.takeSystem, ha, Computer.hasRoom_of_le hfull, hdrop, Bool.not_true, Bool.false_eq_true, if_false]

/-- R115: in a full queue with no POINTER entry the entry is discarded. -/
theorem Computer.takeSystem_of_lost (ha : r.port.accepting = true) (hfull : 16 ≤ r.queue.length)
    (hdrop : dropOldestPointer r.queue = none) (code : SystemCode) : r.takeSystem code = (r, true) := by
  simp only [Computer.takeSystem, ha, Computer.hasRoom_of_le hfull, hdrop, Bool.not_true, Bool.false_eq_true, if_false]

end

/-- Settles O34, by what the port is handed and the way it takes it. -/
theorem portTakesWhatItIsHanded : Obligations.PortTakesWhatItIsHanded := by
  unfold Obligations.PortTakesWhatItIsHanded
  intro r merged
  refine ⟨fun hclosed => ⟨Computer.takeSnapshot_of_not_accepting hclosed, Computer.takePointer_of_not_accepting hclosed,
    Computer.takeSystem_of_not_accepting hclosed⟩, fun hopen => ⟨?snapshot, ?pointer, ?system⟩⟩
  case snapshot =>
    exact fun snap => ⟨Computer.takeSnapshot_of_equal, Computer.takeSnapshot_of_room hopen,
      Computer.takeSnapshot_of_full hopen⟩
  case pointer =>
    intro p w fold
    refine ⟨fun hw hlast => Computer.takePointer_of_same ⟨hw, hlast⟩, fun hnew => ?_⟩
    rw [Computer.takePointer_of_not_same hopen hnew]
    exact ⟨fun older q v hqueue hbuttons => Computer.placePointer_of_folds hqueue hbuttons w,
      fun hfold hroom => Computer.placePointer_of_room hfold hroom w,
      fun hfold hfull => Computer.placePointer_of_full hfold hfull w⟩
  case system =>
    intro code
    refine ⟨fun hroom => Computer.takeSystem_of_room hopen hroom code, fun hfull => ⟨?_, fun hnone => ?_⟩⟩
    · intro before q v after hqueue hbefore
      have hdrop : dropOldestPointer r.queue = some (before ++ after) := by
        rw [hqueue]
        exact dropOldestPointer_append hbefore q v after
      exact Computer.takeSystem_of_displaced hopen hfull hdrop code
    · exact Computer.takeSystem_of_lost hopen hfull (dropOldestPointer_of_no_pointer hnone) code

end Sys2Proof.Machine
end

section
/-! SET POWER TIMING (R164): its owning block leaves the state for every payload but one of six bytes, which sets three timings
and no deadline. -/

namespace Sys2Proof.Machine

variable {payload : List Byte}

/-- R164: the clamped timings are those that the payload's fields give. -/
theorem State.writePowerTiming_fields (a0 a1 b0 b1 c0 c1 : Byte) (s : State) :
    s.writePowerTiming [a0, a1, b0, b1, c0, c1] = s.setWpc { s.wpc with
      wakeTimeout := max 200 (min 10000 (a0.toNat + 256 * a1.toNat))
      sleepTimeout := max 1000 (min 60000 (b0.toNat + 256 * b1.toNat))
      standbyHold := min 600 (c0.toNat + 256 * c1.toNat) } := by
  rw [← clampNat_eq_max_min (by decide), ← clampNat_eq_max_min (by decide), ← clampNat_zero]
  rfl

theorem requestSetPowerTiming_empty (s : State) : requestSetPowerTiming [] s = (s, .okWith s.wpc.timingBytes) := rfl

theorem requestSetPowerTiming_fields (a0 a1 b0 b1 c0 c1 : Byte) (s : State) :
    requestSetPowerTiming [a0, a1, b0, b1, c0, c1] s = (s.writePowerTiming [a0, a1, b0, b1, c0, c1],
      .okWith (s.writePowerTiming [a0, a1, b0, b1, c0, c1]).wpc.timingBytes) := rfl

theorem requestSetPowerTiming_badLength (hempty : payload ≠ []) (hlength : payload.length ≠ 6) (s : State) :
    requestSetPowerTiming payload s = (s, .bare .badLength) := (if_neg hempty).trans (if_pos hlength)

/-- Settles O50, by the length of the payload. -/
theorem setPowerTimingWritesAndReads : Obligations.SetPowerTimingWritesAndReads := by
  unfold Obligations.SetPowerTimingWritesAndReads
  intro t s tag payload rest hasks values
  refine ⟨max s.clock t, le_max_left _ _, ?empty, ?fields, ?badLength⟩
  case empty =>
    rintro rfl
    exact congrArg Host.Outcome.next
      (execute_asks_same hasks (by decide) t requestSetPowerTiming (requestSetPowerTiming_empty _))
  case fields =>
    rintro a0 a1 b0 b1 c0 c1 rfl wpc
    have hwritten : (s.at t).writePowerTiming [a0, a1, b0, b1, c0, c1] = (s.at t).setWpc wpc :=
      State.writePowerTiming_fields a0 a1 b0 b1 c0 c1 (s.at t)
    have howner := requestSetPowerTiming_fields a0 a1 b0 b1 c0 c1 (s.at t)
    rw [hwritten] at howner
    exact congrArg Host.Outcome.next (execute_asks hasks (by decide) t requestSetPowerTiming howner rfl)
  case badLength =>
    intro hempty hlength
    exact congrArg Host.Outcome.next
      (execute_asks_same hasks (by decide) t requestSetPowerTiming (requestSetPowerTiming_badLength hempty hlength _))

end Sys2Proof.Machine
end

section
/-! The laws every step keeps: each law is kept by every move, and so by every command and every step. Where a move does not
touch the records a law reads, the law is the same statement before and after it. -/

namespace Sys2Proof.Machine

variable {A : List Tag} {s t : State}

/-- A law that every move keeps, and that does not read the queue of commands, is kept by every step. -/
theorem step_keeps (P : State → Prop) (hm : ∀ (A : List Tag) (s t : State), Move A s t → P s → P t)
    (hq : ∀ (s : State) (rest : List Instr), P s → P { s with pending := rest }) (h : step s = .next t) (hs : P s) : P t := by
  unfold step at h
  split at h
  case h_1 => cases h; exact hs
  case h_2 c rest _ => exact exec_keeps P hm c _ t h (hq s rest hs)

/-! ### What the larger moves leave -/

theorem State.warp_frame (c : Comp) : ∃ x y fx fy, s.warp c = s.setPtu { s.ptu with px := x, py := y, fx := fx, fy := fy } := by
  unfold State.warp
  split
  · exact ⟨_, _, _, _, rfl⟩
  · exact ⟨_, _, _, _, rfl⟩

theorem State.keepPointer_frame (s : State) : ∃ p, s.keepPointer = s.setPtu p := by
  unfold State.keepPointer
  split
  · exact ⟨s.ptu, rfl⟩
  · exact ⟨_, rfl⟩

theorem State.setHeld_fcu (l : List HeldKey) : (s.setHeld l).fcu = s.fcu := by
  obtain ⟨cps, h⟩ := s.setHeld_eq l
  rw [h]

/-- R107, R151: the start of an attempt on a SUSPENDED port changes its state, the attempts and the link. -/
theorem State.wakeMove_eq (c : Comp) (a : WakeAttempt) (h : (s.comp c).port = .suspended) :
    ∃ clp, s.wakeMove c a = { s with
      cps := s.cps.set c { s.comp c with port := .resuming }
      wpc := { s.wpc with wakes := s.wpc.wakes.set c (some a) }
      clp := clp } := by
  obtain ⟨clp, hmove⟩ := portMove_eq c .resuming (s.setWpc { s.wpc with wakes := s.wpc.wakes.set c (some a) })
  refine ⟨clp, ?_⟩
  rw [State.wakeMove, hmove, enterPort_eq]
  simp only [State.comp_setWpc, h, PortState.accepting, Bool.not_true, Bool.and_false, Bool.false_eq_true, if_false,
    Computer.enter, if_true, reduceCtorEq]
  rfl

/-! ### The focus record and the focus members -/

theorem Move.pendingTargetLaw (h : Move A s t) (hs : s.fcu.PendingTargetLaw) : t.fcu.PendingTargetLaw := by
  cases h with
  | warp c => rw [State.warp_fcu]; exact hs
  | unpark => exact fun p hp => ⟨(hs p hp).1, (hs p hp).2.1, rfl, (hs p hp).2.2.2⟩
  | unpend => exact fun p hp => nomatch hp
  | dwell u d htarget =>
    rintro p ⟨⟩
    unfold State.dwellTarget at htarget
    split at htarget
    · split at htarget
      · next hfree => cases htarget; exact ⟨hfree.2.1, hfree.2.2.1, hfree.2.2.2, hfree.1⟩
      · cases htarget
    · cases htarget
  | focus => exact fun p hp => nomatch hp
  | park tile hnone => exact fun p hp => absurd (hnone ▸ hp : none = some p) nofun
  | soft => exact fun p hp => nomatch hp
  | unsoft => exact fun p hp => ⟨rfl, (hs p hp).2⟩
  | unguard => exact fun p hp => ⟨(hs p hp).1, rfl, (hs p hp).2.2⟩
  | held l => rw [State.setHeld_fcu]; exact hs
  | release f => rw [State.releaseKeys_fcu]; exact hs
  | port c new => rw [portMove_fcu]; exact hs
  | wake c a => rw [State.wakeMove, portMove_fcu]; exact hs
  | hard => exact fun p hp => nomatch hp
  | unhard l _ hhard => exact fun p hp => absurd ((hs p hp).1.symm.trans hhard) nofun
  | refocus => exact fun p hp => nomatch hp
  | place scr pl =>
    obtain ⟨p, hp⟩ := State.keepPointer_frame (s.setLco (s.lco.place scr pl))
    rw [hp]; exact hs
  | fullReset => exact fun p hp => nomatch hp
  | _ => exact hs

/-- Entries whose focus members are focus members of old entries keep the law, where the focus computer stays. -/
theorem focusMemberLaw_of_members (hs : s.FocusMemberLaw) (hfocus : t.fcu.focus = s.fcu.focus)
    (hheld : ∀ k ∈ t.rtf.held, ∀ c, k.focusMember = some c → c = s.fcu.focus ∨ ∃ k0 ∈ s.rtf.held, k0.focusMember = some c) :
    t.FocusMemberLaw := by
  intro k hk c hc
  rw [hfocus]
  obtain h | ⟨k0, hk0, h0⟩ := hheld k hk c hc
  · exact h
  · exact hs k0 hk0 c h0

theorem HeldKey.without_focusMember {k : HeldKey} {c d : Comp} (h : (k.without c).focusMember = some d) :
    k.focusMember = some d := by
  unfold HeldKey.without at h
  dsimp only at h
  split at h
  · cases h
  · exact h

theorem Move.focusMemberLaw (h : Move A s t) (hs : s.FocusMemberLaw) : t.FocusMemberLaw := by
  cases h with
  | warp c => obtain ⟨x, y, fx, fy, hw⟩ := s.warp_frame c; rw [hw]; exact hs
  | focus target cause guard _ hr => exact fun k hk c hc => absurd (hs k hk c hc ▸ hc) (hr k hk)
  | held l hl =>
    exact focusMemberLaw_of_members hs (congrArg Fcu.focus (State.setHeld_fcu l)) fun k hk =>
      (hl k (State.setHeld_held l s ▸ hk)).2
  | release f =>
    refine focusMemberLaw_of_members hs (congrArg Fcu.focus (State.releaseKeys_fcu f)) fun k hk c hc => .inr ?_
    obtain ⟨cps, heq⟩ := s.releaseKeys_eq f
    rw [heq] at hk
    obtain ⟨k0, hk0, rfl⟩ := List.mem_map.mp hk
    split at hc
    · cases hc
    · exact ⟨k0, hk0, hc⟩
  | port c new =>
    refine focusMemberLaw_of_members hs (congrArg Fcu.focus (portMove_fcu c new)) fun k hk d hd => .inr ?_
    rw [portMove_held] at hk
    split at hk
    · obtain ⟨k0, hk0, rfl⟩ := List.mem_map.mp hk
      exact ⟨k0, hk0, HeldKey.without_focusMember hd⟩
    · exact ⟨k, hk, hd⟩
  | wake c a hport => obtain ⟨clp, hw⟩ := State.wakeMove_eq c a hport; rw [hw]; exact hs
  | refocus _ hr => exact fun k hk => nomatch (hr ▸ hk : k ∈ [])
  | place scr pl =>
    obtain ⟨p, hp⟩ := State.keepPointer_frame (s.setLco (s.lco.place scr pl))
    rw [hp]; exact hs
  | fullReset => exact fun k hk => nomatch hk
  | _ => exact hs

/-- Settles O5, move by move. -/
theorem everyStepKeepsTheFocusLaws : Obligations.EveryStepKeepsTheFocusLaws := by
  unfold Obligations.EveryStepKeepsTheFocusLaws
  exact fun s t h =>
    ⟨step_keeps (fun s => s.fcu.PendingTargetLaw) (fun _ _ _ => Move.pendingTargetLaw) (fun _ _ hs => hs) h,
      step_keeps State.FocusMemberLaw (fun _ _ _ => Move.focusMemberLaw) (fun _ _ hs => hs) h⟩

/-! ### The computer ports and the key sets -/

/-- The members of the entries that a change of the held key table leaves are named by the old table or take keys now. -/
theorem reportQueueLaw_of_setHeld {l : List HeldKey} (hs : s.ReportQueueLaw)
    (hl : ∀ k ∈ l, ∀ c, k.names c = true → (s.comp c).port.accepting = true) : (s.setHeld l).ReportQueueLaw := by
  have hport (c : Comp) : ((s.comp c).refreshed l c).port = (s.comp c).port := by
    obtain ⟨q, last, owed, merge, heq, -, -⟩ := Computer.refreshed_frame l c (s.comp c)
    rw [heq]
  refine ⟨fun c => ?_, fun k hk c hc => ?_⟩
  · rw [State.comp_setHeld, hport]
    obtain ⟨q, last, owed, merge, heq, hroom, hclosed⟩ := Computer.refreshed_frame l c (s.comp c)
    rw [heq]
    obtain ⟨hlen, hempty⟩ := hs.1 c
    refine ⟨hroom hlen, fun ha => ⟨(hclosed ha).trans (hempty ha).1, ?_⟩⟩
    refine List.eq_nil_iff_forall_not_mem.mpr fun u hu => ?_
    obtain ⟨k, hk, -, hnames⟩ := (nextKeySet_mem l c _ u).mp hu
    exact Bool.false_ne_true (ha.symm.trans (hl k hk c hnames))
  · rw [State.comp_setHeld, hport]
    exact hl k (State.setHeld_held l s ▸ hk) c hc

/-- An entry that is focus member of one computer less names no other computer than before. -/
theorem HeldKey.names_of_released {k : HeldKey} {f c : Comp}
    (h : (if k.focusMember = some f then { k with focusMember := none } else k).names c = true) : k.names c = true := by
  unfold HeldKey.names at h ⊢
  split at h
  · simp only [reduceCtorEq, decide_false, Bool.false_or] at h
    rw [h, Bool.or_true]
  · exact h

/-- The release of another computer leaves the members an entry names. -/
theorem HeldKey.names_released_of_ne {k : HeldKey} {f c : Comp} (hc : c ≠ f) :
    (if k.focusMember = some f then { k with focusMember := none } else k).names c = k.names c := by
  unfold HeldKey.names
  split
  · next h =>
    have hne : k.focusMember ≠ some c := fun h' => hc (Option.some.inj (h'.symm.trans h))
    simp only [reduceCtorEq, decide_false, hne]
  · rfl

theorem reportQueueLaw_of_releaseKeys (hs : s.ReportQueueLaw) (f : Comp) : (s.releaseKeys f).ReportQueueLaw := by
  obtain ⟨cps, heq⟩ := s.releaseKeys_eq f
  have hheld : ∀ k ∈ (s.releaseKeys f).rtf.held, ∀ c, k.names c = true → (s.comp c).port.accepting = true := by
    rw [heq]
    intro k hk c hc
    obtain ⟨k0, hk0, rfl⟩ := List.mem_map.mp hk
    exact hs.2 k0 hk0 c (HeldKey.names_of_released hc)
  have hcomp (c : Comp) : (s.releaseKeys f).comp c = s.comp c ∨
      (s.releaseKeys f).comp c = (s.comp c).refreshed (s.releaseKeys f).rtf.held c := by
    rw [State.comp_releaseKeys]
    split
    · next h => subst h; right; rw [heq]
    · exact .inl rfl
  have hport (c : Comp) : ((s.releaseKeys f).comp c).port = (s.comp c).port := by
    obtain h | h := hcomp c
    · rw [h]
    · obtain ⟨q, last, owed, merge, hr, -, -⟩ := Computer.refreshed_frame (s.releaseKeys f).rtf.held c (s.comp c)
      rw [h, hr]
  have hset : (s.setHeld (s.releaseKeys f).rtf.held).ReportQueueLaw := reportQueueLaw_of_setHeld hs hheld
  refine ⟨fun c => ?_, fun k hk c hc => by rw [hport]; exact hheld k hk c hc⟩
  obtain h | h := hcomp c
  · rw [h]; exact hs.1 c
  · rw [h, ← State.comp_setHeld]; exact hset.1 c

/-- The law reads the computers' records and the held key table alone. -/
theorem reportQueueLaw_congr (hs : s.ReportQueueLaw) (hcps : t.cps = s.cps) (hheld : t.rtf.held = s.rtf.held) :
    t.ReportQueueLaw := by
  have hcomp (c : Comp) : t.comp c = s.comp c := by simp only [State.comp, hcps]
  exact ⟨fun c => by rw [hcomp]; exact hs.1 c, fun k hk c hc => by rw [hcomp]; exact hs.2 k (hheld ▸ hk) c hc⟩

theorem Computer.timedOut_samePort (r : Computer) : r.SamePort r.timedOut :=
  ⟨rfl, rfl, fun _ => rfl, fun _ => Nat.zero_le _, fun _ _ => rfl⟩

theorem State.comp_fullReset (s : State) (c : Comp) : s.fullReset.comp c = Computer.reset :=
  Vector.getElem_replicate ..

theorem Move.reportQueueLaw (h : Move A s t) (hs : s.ReportQueueLaw) : t.ReportQueueLaw := by
  cases h with
  | warp c => obtain ⟨x, y, fx, fy, hw⟩ := s.warp_frame c; rw [hw]; exact hs
  | report c p w => exact record_law c _ (Computer.takePointer_same _ p w) hs
  | system c code => exact record_law c _ (takeSystem_same _ code) hs
  | held l hl =>
    refine reportQueueLaw_of_setHeld hs fun k hk c hc => ?_
    obtain h | ⟨k0, hk0, h0⟩ := (hl k hk).1 c hc
    · exact h
    · exact hs.2 k0 hk0 c h0
  | release f => exact reportQueueLaw_of_releaseKeys hs f
  | port c new =>
    obtain ⟨clp, heq⟩ := portMove_eq c new s
    rw [heq]
    exact reportQueueLaw_congr (enterPort_law c new hs) rfl rfl
  | wake c a =>
    let attempted : State := s.setWpc { s.wpc with wakes := s.wpc.wakes.set c (some a) }
    obtain ⟨clp, heq⟩ := portMove_eq c .resuming attempted
    rw [State.wakeMove, heq]
    exact reportQueueLaw_congr (enterPort_law (s := attempted) c .resuming hs) rfl rfl
  | timedOut c => exact record_law c _ (Computer.timedOut_samePort _) hs
  | record c r _ hr => exact record_law c r hr hs
  | place scr pl =>
    obtain ⟨p, hp⟩ := State.keepPointer_frame (s.setLco (s.lco.place scr pl))
    rw [hp]; exact hs
  | fullReset =>
    refine ⟨fun c => ?_, fun k hk => nomatch hk⟩
    rw [State.comp_fullReset]
    exact ⟨by decide, fun _ => ⟨rfl, rfl⟩⟩
  | _ => exact hs

/-- The law reads the key sets and the held key table alone. -/
theorem keySetLaw_congr (hs : s.KeySetLaw) (hkeys : ∀ c, (t.comp c).keySet = (s.comp c).keySet)
    (hheld : t.rtf.held = s.rtf.held) : t.KeySetLaw := by
  intro c
  rw [hkeys, hheld]
  exact hs c

theorem keySetLaw_of_record {c : Comp} {r : Computer} (hs : s.KeySetLaw) (hr : r.keySet = (s.comp c).keySet) :
    (s.setComp c r).KeySetLaw := by
  refine keySetLaw_congr hs (fun d => ?_) rfl
  rw [State.comp_setComp]
  split
  · next h => subst h; exact hr
  · rfl

theorem Computer.refreshed_keySet (held : List HeldKey) (c : Comp) (r : Computer) :
    (r.refreshed held c).keySet = nextKeySet held c r.keySet := by
  obtain ⟨q, last, owed, merge, heq, -, -⟩ := Computer.refreshed_frame held c r
  rw [heq]

/-- R48: a key set recomputed from a table is the one the table gives. -/
theorem refreshed_meets_keySetLaw (held : List HeldKey) (c : Comp) (r : Computer) (h : r.keySet.Nodup) :
    (r.refreshed held c).keySet.Nodup ∧
      ∀ u, u ∈ (r.refreshed held c).keySet ↔ ∃ k ∈ held, k.usage = u ∧ k.names c = true := by
  rw [Computer.refreshed_keySet]
  exact ⟨nextKeySet_nodup held c _ h, nextKeySet_mem held c _⟩

theorem keySetLaw_of_setHeld (hs : s.KeySetLaw) (l : List HeldKey) : (s.setHeld l).KeySetLaw := by
  intro c
  rw [State.comp_setHeld, State.setHeld_held]
  exact refreshed_meets_keySetLaw l c _ (hs c).1

theorem keySetLaw_of_releaseKeys (hs : s.KeySetLaw) (f : Comp) : (s.releaseKeys f).KeySetLaw := by
  intro c
  obtain ⟨cps, heq⟩ := s.releaseKeys_eq f
  have hheld := congrArg (fun v => v.rtf.held) heq
  rw [State.comp_releaseKeys, hheld]
  split
  · next h => subst h; exact refreshed_meets_keySetLaw _ c _ (hs c).1
  · next h =>
    refine ⟨(hs c).1, fun u => ((hs c).2 u).trans ⟨?_, ?_⟩⟩
    · rintro ⟨k, hk, hu, hnames⟩
      refine ⟨_, List.mem_map_of_mem hk, ?_, (HeldKey.names_released_of_ne h).trans hnames⟩
      split <;> exact hu
    · rintro ⟨k, hk, hu, hnames⟩
      obtain ⟨k0, hk0, rfl⟩ := List.mem_map.mp hk
      refine ⟨k0, hk0, ?_, HeldKey.names_of_released hnames⟩
      split at hu <;> exact hu

theorem Computer.enter_keySet (r : Computer) (new : PortState) :
    (r.enter new).keySet = if r.port.accepting && !new.accepting then [] else r.keySet := by
  unfold Computer.enter
  cases new.accepting <;> cases r.port.accepting <;> rfl

/-- R52, R109: a port that leaves the accepting states holds no key, and no entry names its computer. -/
theorem keySetLaw_of_portMove (hs : s.KeySetLaw) (c : Comp) (new : PortState) : (s.portMove c new).KeySetLaw := by
  intro d
  rw [comp_portMove, portMove_held]
  by_cases hleave : ((s.comp c).port.accepting && !new.accepting) = true
  case neg =>
    rw [if_neg hleave]
    split
    · next h => subst h; rw [Computer.enter_keySet, if_neg hleave]; exact hs d
    · exact hs d
  case pos =>
    rw [if_pos hleave]
    split
    · next h =>
      subst h
      rw [Computer.enter_keySet, if_pos hleave]
      refine ⟨List.nodup_nil, fun u => ⟨nofun, ?_⟩⟩
      rintro ⟨k, hk, -, hnames⟩
      obtain ⟨k0, -, rfl⟩ := List.mem_map.mp hk
      rw [names_without] at hnames
      simp only [ne_eq, not_true_eq_false, decide_false, Bool.and_false, Bool.false_eq_true] at hnames
    · next h =>
      have hnames (k : HeldKey) : (k.without c).names d = k.names d := by
        rw [names_without, decide_eq_true h, Bool.and_true]
      refine ⟨(hs d).1, fun u => ((hs d).2 u).trans ⟨?_, ?_⟩⟩
      · rintro ⟨k, hk, hu, hn⟩
        exact ⟨_, List.mem_map_of_mem hk, hu, (hnames k).trans hn⟩
      · rintro ⟨k, hk, hu, hn⟩
        obtain ⟨k0, hk0, rfl⟩ := List.mem_map.mp hk
        exact ⟨k0, hk0, hu, (hnames k0).symm.trans hn⟩

theorem Move.keySetLaw (h : Move A s t) (hs : s.KeySetLaw) : t.KeySetLaw := by
  cases h with
  | warp c => obtain ⟨x, y, fx, fy, hw⟩ := s.warp_frame c; rw [hw]; exact hs
  | report c p w => exact keySetLaw_of_record hs (Computer.takePointer_same _ p w).keySet
  | system c code => exact keySetLaw_of_record hs (takeSystem_same _ code).keySet
  | held l => exact keySetLaw_of_setHeld hs l
  | release f => exact keySetLaw_of_releaseKeys hs f
  | port c new => exact keySetLaw_of_portMove hs c new
  | wake c a =>
    exact keySetLaw_of_portMove (s := s.setWpc { s.wpc with wakes := s.wpc.wakes.set c (some a) }) hs c .resuming
  | timedOut c => exact keySetLaw_of_record hs rfl
  | record c r _ hr => exact keySetLaw_of_record hs hr.keySet
  | place scr pl =>
    obtain ⟨p, hp⟩ := State.keepPointer_frame (s.setLco (s.lco.place scr pl))
    rw [hp]; exact hs
  | fullReset =>
    intro c
    rw [State.comp_fullReset]
    exact ⟨List.nodup_nil, fun u => ⟨nofun, fun ⟨k, hk, _⟩ => nomatch hk⟩⟩
  | _ => exact hs

/-- Settles O6, move by move. -/
theorem everyStepKeepsThePortLaws : Obligations.EveryStepKeepsThePortLaws := by
  unfold Obligations.EveryStepKeepsThePortLaws
  exact fun s t h =>
    ⟨step_keeps State.ReportQueueLaw (fun _ _ _ => Move.reportQueueLaw) (fun _ _ hs => hs) h,
      step_keeps State.KeySetLaw (fun _ _ _ => Move.keySetLaw) (fun _ _ hs => hs) h⟩

/-! ### The sequencer -/

theorem Hks.sequencerLaw_swallow {h : Hks} (hs : h.SequencerLaw) (p : DeskPortId) (u : Byte) :
    (h.swallow p u).SequencerLaw := by
  refine ⟨hs.1, hs.2.1, ?_⟩
  have hlen := hs.2.2
  unfold Hks.swallow
  dsimp only
  split <;> simp only [List.length_append, List.length_drop, List.length_singleton] <;> omega

theorem Move.sequencerLaw (h : Move A s t) (hs : s.hks.SequencerLaw) : t.hks.SequencerLaw := by
  cases h with
  | warp c => obtain ⟨x, y, fx, fy, hw⟩ := s.warp_frame c; rw [hw]; exact hs
  | held l => obtain ⟨cps, heq⟩ := s.setHeld_eq l; rw [heq]; exact hs
  | release f => obtain ⟨cps, heq⟩ := s.releaseKeys_eq f; rw [heq]; exact hs
  | port c new => obtain ⟨clp, heq⟩ := portMove_eq c new s; rw [heq, enterPort_eq]; exact hs
  | wake c a hport => obtain ⟨clp, heq⟩ := State.wakeMove_eq c a hport; rw [heq]; exact hs
  | keysIdle => exact ⟨Nat.zero_le _, ⟨fun _ => rfl, fun _ => rfl⟩, hs.2.2⟩
  | keysHold e next _ hlen hnext =>
    refine ⟨?_, ⟨fun h => absurd h hnext, fun h => absurd h (List.append_ne_nil_of_right_ne_nil _ (by simp))⟩, hs.2.2⟩
    simpa using hlen
  | swallow p u => exact Hks.sequencerLaw_swallow hs p u
  | unswallow f => exact ⟨hs.1, hs.2.1, (List.length_filter_le _ _).trans hs.2.2⟩
  | unhold f =>
    refine ⟨(List.length_filter_le _ _).trans hs.1, ?_, hs.2.2⟩
    show (if s.hks.hold.filter f = [] then Sequencer.idle else s.hks.seq) = .idle ↔ s.hks.hold.filter f = []
    split
    · next h => exact ⟨fun _ => h, fun _ => rfl⟩
    · next h => exact ⟨fun hidle => absurd (by rw [hs.2.1.mp hidle]; rfl) h, fun hnil => absurd hnil h⟩
  | place scr pl =>
    obtain ⟨p, hp⟩ := State.keepPointer_frame (s.setLco (s.lco.place scr pl))
    rw [hp]; exact hs
  | fullReset => exact ⟨Nat.zero_le _, ⟨fun _ => rfl, fun _ => rfl⟩, Nat.zero_le _⟩
  | _ => exact hs

/-- Settles O7, move by move. -/
theorem everyStepKeepsTheSequencerLaw : Obligations.EveryStepKeepsTheSequencerLaw := by
  unfold Obligations.EveryStepKeepsTheSequencerLaw
  exact fun s t => step_keeps (fun s => s.hks.SequencerLaw) (fun _ _ _ => Move.sequencerLaw) (fun _ _ hs => hs)

/-! ### Desk sleep and the wake attempts -/

theorem Move.deskRecordLaw (h : Move A s t) (hs : s.wpc.DeskRecordLaw) : t.wpc.DeskRecordLaw := by
  cases h with
  | warp c => obtain ⟨x, y, fx, fy, hw⟩ := s.warp_frame c; rw [hw]; exact hs
  | held l => obtain ⟨cps, heq⟩ := s.setHeld_eq l; rw [heq]; exact hs
  | release f => obtain ⟨cps, heq⟩ := s.releaseKeys_eq f; rw [heq]; exact hs
  | port c new => obtain ⟨clp, heq⟩ := portMove_eq c new s; rw [heq]; exact hs
  | wake c a hport => obtain ⟨clp, heq⟩ := State.wakeMove_eq c a hport; rw [heq]; exact hs
  | deskSleep w hw => exact hw.law hs
  | place scr pl =>
    obtain ⟨p, hp⟩ := State.keepPointer_frame (s.setLco (s.lco.place scr pl))
    rw [hp]; exact hs
  | fullReset => exact ⟨fun _ => rfl, ⟨nofun, nofun⟩⟩
  | _ => exact hs

/-- The law reads the ports, their permissions while RESUMING, and the attempts. -/
theorem wakeAttemptLaw_congr (hs : s.WakeAttemptLaw) (hport : ∀ c, (t.comp c).port = (s.comp c).port)
    (hwake : ∀ c, (s.comp c).port = .resuming → (t.comp c).remoteWake = (s.comp c).remoteWake)
    (hwakes : t.wpc.wakes = s.wpc.wakes) : t.WakeAttemptLaw := by
  intro c
  rw [hport, hwakes]
  exact ⟨(hs c).1, fun h => (hwake c h).trans ((hs c).2 h)⟩

theorem wakeAttemptLaw_of_record {c : Comp} {r : Computer} (hs : s.WakeAttemptLaw) (hr : (s.comp c).SamePort r) :
    (s.setComp c r).WakeAttemptLaw := by
  refine wakeAttemptLaw_congr hs (fun d => ?_) (fun d hd => ?_) rfl <;> rw [State.comp_setComp] <;> split
  · next h => subst h; exact hr.port
  · rfl
  · next h => subst h; exact hr.remoteWake hd
  · rfl

theorem Computer.refreshed_port (held : List HeldKey) (c : Comp) (r : Computer) :
    (r.refreshed held c).port = r.port ∧ (r.refreshed held c).remoteWake = r.remoteWake := by
  obtain ⟨q, last, owed, merge, heq, -, -⟩ := Computer.refreshed_frame held c r
  rw [heq]
  exact ⟨rfl, rfl⟩

theorem Computer.enter_port (r : Computer) (new : PortState) : (r.enter new).port = new := by
  unfold Computer.enter
  split
  · rfl
  · split <;> rfl

/-- An attempt ends with its port's leaving RESUMING, and a port enters RESUMING by a wake alone. -/
theorem wakeAttemptLaw_of_portMove (hs : s.WakeAttemptLaw) (c : Comp) {new : PortState} (hnew : new ≠ .resuming) :
    (s.portMove c new).WakeAttemptLaw := by
  have hwakes : (s.portMove c new).wpc.wakes =
      if (s.comp c).port = .resuming then s.wpc.wakes.set c none else s.wpc.wakes := by
    obtain ⟨clp, heq⟩ := portMove_eq c new s
    rw [heq]
  intro d
  rw [comp_portMove, hwakes]
  by_cases hd : d = c
  · subst hd
    simp only [if_true, Computer.enter_port, hnew, false_iff, false_imp_iff, and_true]
    split
    · simp
    · next h => exact fun hsome => h ((hs d).1.mpr hsome)
  · rw [if_neg hd]
    have hne : c.val ≠ d.val := fun h => hd (Fin.ext h.symm)
    split
    · rw [show (s.wpc.wakes.set c none)[d] = s.wpc.wakes[d] by simp [hne]]
      exact hs d
    · exact hs d

theorem wakeAttemptLaw_of_wakeMove (hs : s.WakeAttemptLaw) (c : Comp) (a : WakeAttempt)
    (hport : (s.comp c).port = .suspended) (hwake : (s.comp c).remoteWake = true) : (s.wakeMove c a).WakeAttemptLaw := by
  obtain ⟨clp, heq⟩ := State.wakeMove_eq c a hport
  have hcomp (d : Comp) : (s.wakeMove c a).comp d =
      if d = c then { s.comp c with port := .resuming } else s.comp d := by
    rw [heq]
    exact s.comp_setComp c d { s.comp c with port := .resuming }
  have hwakes : (s.wakeMove c a).wpc.wakes = s.wpc.wakes.set c (some a) := by rw [heq]
  intro d
  rw [hcomp, hwakes]
  by_cases hd : d = c
  · subst hd
    simp [hwake]
  · have hne : c.val ≠ d.val := fun h => hd (Fin.ext h.symm)
    rw [if_neg hd, show (s.wpc.wakes.set c (some a))[d] = s.wpc.wakes[d] by simp [hne]]
    exact hs d

theorem Move.wakeAttemptLaw (h : Move A s t) (hs : s.WakeAttemptLaw) : t.WakeAttemptLaw := by
  cases h with
  | warp c => obtain ⟨x, y, fx, fy, hw⟩ := s.warp_frame c; rw [hw]; exact hs
  | report c p w => exact wakeAttemptLaw_of_record hs (Computer.takePointer_same _ p w)
  | system c code => exact wakeAttemptLaw_of_record hs (takeSystem_same _ code)
  | held l =>
    have hcomp := State.comp_setHeld (s := s) l
    refine wakeAttemptLaw_congr hs (fun c => ?_) (fun c _ => ?_) ?_
    · rw [hcomp]; exact (Computer.refreshed_port ..).1
    · rw [hcomp]; exact (Computer.refreshed_port ..).2
    · obtain ⟨cps, heq⟩ := s.setHeld_eq l; rw [heq]
  | release f =>
    have hcomp := State.comp_releaseKeys (s := s) f
    refine wakeAttemptLaw_congr hs (fun c => ?_) (fun c _ => ?_) ?_
    · rw [hcomp]; split
      · next h => subst h; exact (Computer.refreshed_port ..).1
      · rfl
    · rw [hcomp]; split
      · next h => subst h; exact (Computer.refreshed_port ..).2
      · rfl
    · obtain ⟨cps, heq⟩ := s.releaseKeys_eq f; rw [heq]
  | port c new _ hnew => exact wakeAttemptLaw_of_portMove hs c hnew
  | wake c a hport hwake => exact wakeAttemptLaw_of_wakeMove hs c a hport hwake
  | timedOut c => exact wakeAttemptLaw_of_record hs (Computer.timedOut_samePort _)
  | deskSleep w hw => exact wakeAttemptLaw_congr hs (fun _ => rfl) (fun _ _ => rfl) hw.wakes
  | record c r _ hr => exact wakeAttemptLaw_of_record hs hr
  | place scr pl =>
    obtain ⟨p, hp⟩ := State.keepPointer_frame (s.setLco (s.lco.place scr pl))
    rw [hp]; exact hs
  | fullReset =>
    intro c
    rw [State.comp_fullReset, show s.fullReset.wpc.wakes[c] = none from Vector.getElem_replicate ..]
    exact ⟨⟨nofun, nofun⟩, nofun⟩
  | _ => exact hs

/-- Settles O8, move by move. -/
theorem everyStepKeepsThePowerLaws : Obligations.EveryStepKeepsThePowerLaws := by
  unfold Obligations.EveryStepKeepsThePowerLaws
  exact fun s t h =>
    ⟨step_keeps (fun s => s.wpc.DeskRecordLaw) (fun _ _ _ => Move.deskRecordLaw) (fun _ _ hs => hs) h,
      step_keeps State.WakeAttemptLaw (fun _ _ _ => Move.wakeAttemptLaw) (fun _ _ hs => hs) h⟩

/-! ### The link -/

/-- The reservation of a transaction: an acceptable PUT in progress holds one place (R176). -/
def Spi.place : Spi → Nat
  | .putting true => 1
  | _ => 0

theorem Clp.places_eq (c : Clp) : c.places = c.inbound.length + c.spi.place := by
  unfold Clp.places
  rcases c.spi with _ | status | (_ | _) | ⟨frame, queued⟩ | _ <;> rfl

theorem Spi.place_orphaned (spi : Spi) : spi.orphaned.place = spi.place := by
  cases spi <;> rfl

theorem Spi.place_le (spi : Spi) : spi.place ≤ 1 := by
  unfold Spi.place
  split <;> decide

theorem linkLaw_select {c : Clp} (h : c.LinkLaw) : c.select.LinkLaw := by
  unfold Clp.LinkLaw at *
  unfold Clp.select
  simp only [Clp.places_eq] at *
  split
  · exact h
  · exact h
  · simp only [Spi.place]; omega

theorem linkLaw_openPut {c : Clp} (h : c.LinkLaw) : c.openPut.LinkLaw := by
  unfold Clp.openPut
  split
  · next status hspi =>
    unfold Clp.LinkLaw at *
    have hplace : (Spi.putting c.putAcceptable).place = 1 → c.places < 4 ∧ c.outbound.length + c.places < 32 := by
      intro hone
      cases hacc : c.putAcceptable with
      | false => rw [hacc] at hone; exact absurd hone (by decide)
      | true => simpa [Clp.putAcceptable] using hacc
    have hle := Spi.place_le (.putting c.putAcceptable)
    simp only [Clp.places_eq, hspi, Spi.place] at *
    omega
  · exact h

theorem linkLaw_openTake {c : Clp} (h : c.LinkLaw) : c.openTake.LinkLaw := by
  unfold Clp.openTake
  split
  · unfold Clp.LinkLaw at *
    simp only [Clp.places_eq, Spi.place] at *
    omega
  · exact h

theorem linkLaw_openOther {c : Clp} (h : c.LinkLaw) (bytes : List Byte) : (c.openOther bytes).LinkLaw := by
  unfold Clp.openOther
  split
  · unfold Clp.LinkLaw at *
    simp only [Clp.places_eq, Spi.place] at *
    omega
  · exact h

theorem requestOf_length (bytes : List Byte) : (requestOf bytes).toList.length ≤ 1 := by
  cases requestOf bytes <;> simp

/-- R176: a PUT's place is taken by its request, or released. -/
theorem linkLaw_closePut {c : Clp} (h : c.LinkLaw) (bytes : List Byte) : (c.closePut bytes).LinkLaw := by
  unfold Clp.closePut
  split
  · next acceptable hspi =>
    unfold Clp.LinkLaw at *
    have hlen := requestOf_length bytes
    cases acceptable <;> simp only [Clp.places_eq, hspi, Spi.place, if_true, Bool.false_eq_true, if_false,
      List.length_append] at * <;> omega
  · exact h

theorem linkLaw_closeTake {c : Clp} (h : c.LinkLaw) (n : Nat) : (c.closeTake n).LinkLaw := by
  unfold Clp.closeTake
  split
  · next frame queued hspi =>
    unfold Clp.LinkLaw at *
    simp only [Clp.places_eq, hspi, Spi.place] at *
    split
    · rw [List.length_drop]; omega
    · exact h
  · exact h

/-- R179: a reply takes the reservation that its request held. -/
theorem linkLaw_sendReply {c : Clp} (h : c.LinkLaw) (hi : c.inbound ≠ []) (r : Request) (reply : Reply) :
    (c.sendReply r reply).LinkLaw := by
  have hpos := List.length_pos_iff.mpr hi
  unfold Clp.LinkLaw Clp.sendReply at *
  simp only [Clp.places_eq, List.length_append, List.length_drop, List.length_singleton] at *
  omega

/-- R182: the reply is the only frame; an acceptable PUT in progress keeps its place. -/
theorem linkLaw_restarted (c : Clp) (r : Request) : (c.restarted r).LinkLaw := by
  have hle := Spi.place_le c.spi
  unfold Clp.LinkLaw Clp.restarted
  simp only [Clp.places_eq, Spi.place_orphaned, List.length_nil, List.length_singleton]
  omega

theorem linkLaw_reset : Clp.reset.LinkLaw := ⟨by decide, by decide⟩

theorem State.portMove_clp (s : State) (c : Comp) (new : PortState) (h : s.clp.LinkLaw) : (s.portMove c new).clp.LinkLaw := by
  have henter : (s.enterPort c new).clp = s.clp := by rw [enterPort_eq]
  have hnotified : ((s.enterPort c new).notify (.portState c new (s.comp c).port
      ((s.enterPort c new).comp c).remoteWake)).clp.LinkLaw := by
    rw [State.notify_clp, henter]
    exact link_notify _ _ h
  unfold State.portMove
  dsimp only
  split
  · unfold State.endAttempt
    split
    · exact link_notify _ _ hnotified
    · exact hnotified
  · exact hnotified

theorem Move.linkLaw (h : Move A s t) (hs : s.clp.LinkLaw) : t.clp.LinkLaw := by
  cases h with
  | notify n => exact link_notify _ n hs
  | warp c => obtain ⟨x, y, fx, fy, hw⟩ := s.warp_frame c; rw [hw]; exact hs
  | held l => obtain ⟨cps, heq⟩ := s.setHeld_eq l; rw [heq]; exact hs
  | release f => obtain ⟨cps, heq⟩ := s.releaseKeys_eq f; rw [heq]; exact hs
  | port c new => exact s.portMove_clp c new hs
  | wake c a => exact State.portMove_clp (s.setWpc _) c .resuming hs
  | place scr pl =>
    obtain ⟨p, hp⟩ := State.keepPointer_frame (s.setLco (s.lco.place scr pl))
    rw [hp]; exact hs
  | select => exact linkLaw_select hs
  | openPut => exact linkLaw_openPut hs
  | closePut bytes => exact linkLaw_closePut hs bytes
  | openTake => exact linkLaw_openTake hs
  | closeTake n => exact linkLaw_closeTake hs n
  | openOther bytes => exact linkLaw_openOther hs bytes
  | reply r rep _ hi => exact linkLaw_sendReply hs hi r rep
  | restart r => exact linkLaw_restarted _ r
  | fullReset => exact linkLaw_reset
  | _ => exact hs

/-- Settles O9, move by move. -/
theorem everyStepKeepsTheLinkLaw : Obligations.EveryStepKeepsTheLinkLaw := by
  unfold Obligations.EveryStepKeepsTheLinkLaw
  exact fun s t => step_keeps (fun s => s.clp.LinkLaw) (fun _ _ _ => Move.linkLaw) (fun _ _ hs => hs)

/-! ### The layout -/

theorem State.portMove_lco (s : State) (c : Comp) (new : PortState) : (s.portMove c new).lco = s.lco := by
  obtain ⟨clp, heq⟩ := portMove_eq c new s
  rw [heq, enterPort_eq]

/-- The law reads the placements and the chains' starts. -/
theorem canvasLaw_of_sameLayout {l l' : Lco} (h : l.SameLayout l') (hl : l.CanvasLaw) : l'.CanvasLaw :=
  canvas_screens l l' (fun scr => ⟨h.placed scr, h.rect scr, fun _ ha hp =>
    ⟨(h.active scr).trans ha, (h.pending scr).trans hp⟩⟩) hl

/-- The law reads the screens alone. -/
theorem canvasLaw_of_screens {l l' : Lco} (h : l'.screens = l.screens) (hl : l.CanvasLaw) : l'.CanvasLaw := by
  unfold Lco.CanvasLaw at *
  rw [h]
  exact hl

theorem canvasLaw_setChains {l : Lco} {scr : ScreenId} {active : Option TileId} {pending : Option (Option TileId)}
    (hl : l.CanvasLaw) (h : l.screens[scr].placed = false → active = none ∧ pending = none) :
    (l.setScreen scr { l.screens[scr] with active := active, pending := pending }).CanvasLaw := by
  refine canvas_screens l _ (fun o => ?_) hl
  rw [setScreen_get]
  split
  · next ho => subst ho; exact ⟨rfl, rfl, fun hn _ _ => h hn⟩
  · exact ⟨rfl, rfl, fun _ ha hp => ⟨ha, hp⟩⟩

theorem canvasLaw_reset : Lco.reset.CanvasLaw := by
  refine ⟨⟨0, rfl⟩, fun scr => ?_, fun scr other => ?_⟩
  · unfold Rect.Placeable; revert scr; decide
  · revert scr other; decide

theorem Move.canvasLaw (h : Move A s t) (hs : s.lco.CanvasLaw) : t.lco.CanvasLaw := by
  cases h with
  | warp c => obtain ⟨x, y, fx, fy, hw⟩ := s.warp_frame c; rw [hw]; exact hs
  | held l => obtain ⟨cps, heq⟩ := s.setHeld_eq l; rw [heq]; exact hs
  | release f => obtain ⟨cps, heq⟩ := s.releaseKeys_eq f; rw [heq]; exact hs
  | port c new => rw [State.portMove_lco]; exact hs
  | wake c a => rw [State.wakeMove, State.portMove_lco]; exact hs
  | layout l hl => exact canvasLaw_of_sameLayout hl hs
  | pend scr start hplaced => exact canvasLaw_setChains hs fun hn => absurd (hplaced.symm.trans hn) nofun
  | applied scr start hpending =>
    exact canvasLaw_setChains hs fun hn => absurd (hpending.symm.trans ((hs.2.1 scr).2 hn).2) nofun
  | lastPreset n => exact canvasLaw_of_screens rfl hs
  | settings l _ hl => exact canvasLaw_of_screens hl hs
  | tile r x => exact canvasLaw_of_screens rfl hs
  | signal hd size => exact canvasLaw_of_screens rfl hs
  | place scr pl _ hp hr =>
    obtain ⟨p, heq⟩ := State.keepPointer_frame (s.setLco (s.lco.place scr pl))
    rw [heq]
    exact canvas_place s.lco scr pl hs hp hr
  | fullReset => exact canvasLaw_reset
  | _ => exact hs

theorem Lco.setScreen_chain (l : Lco) (scr : ScreenId) (x : Screen) (start : Option TileId) :
    (l.setScreen scr x).chain start = l.chain start := rfl

/-- What the chains of a screen's new record hold (R130). -/
theorem setScreen_inChains_same (l : Lco) (scr : ScreenId) (x : Screen) (r : TileId) :
    (l.setScreen scr x).inChains scr r = true ↔
      r ∈ l.chain x.active ∨ ∃ start, x.pending = some start ∧ r ∈ l.chain start := by
  have hget : (l.setScreen scr x).screens[scr] = x := by rw [setScreen_get, if_pos rfl]
  simp only [Lco.inChains, Lco.activeChain, Lco.pendingChain, hget, Lco.setScreen_chain, Bool.or_eq_true,
    List.contains_iff_mem]
  cases x.pending with
  | none => simp
  | some start => simp

theorem inChains_iff (l : Lco) (scr : ScreenId) (r : TileId) :
    l.inChains scr r = true ↔
      r ∈ l.activeChain scr ∨ ∃ start, l.screens[scr].pending = some start ∧ r ∈ l.chain start := by
  simp only [Lco.inChains, Lco.pendingChain, Bool.or_eq_true, List.contains_iff_mem]
  cases l.screens[scr].pending with
  | none => simp
  | some start => simp

/-- R130: a record in one screen's chains is in no other's. -/
theorem ChainLaw.other {l : Lco} (hl : l.ChainLaw) {scr other : ScreenId} {r : TileId} (h : l.inChains scr r = true)
    (hne : other ≠ scr) : l.inChains other r = false := by
  by_contra hc
  exact hne (hl.2 r other scr (by simpa using hc) h)

/-- R132: a chain whose walk has succeeded may wait on its screen. -/
theorem chainLaw_pend {l : Lco} (hl : l.ChainLaw) {scr : ScreenId} {start : Option TileId}
    (h : l.checkChain scr start = none) :
    (l.setScreen scr { l.screens[scr] with pending := some start }).ChainLaw := by
  obtain ⟨hends, hothers⟩ := walk_ends l scr 32 start h
  refine chain_setScreen l scr _ hl ?_ fun r hr other hne => ?_
  · rintro st (hst | hst)
    · exact hl.1 scr st (.inl hst)
    · cases hst; exact hends
  · obtain hr | ⟨st, hst, hr⟩ := (setScreen_inChains_same l scr _ r).mp hr
    · exact ChainLaw.other hl ((inChains_iff l scr r).mpr (.inl hr)) hne
    · cases hst; exact hothers r hr other hne

/-- R133: a pending chain may become the active one. -/
theorem chainLaw_applied {l : Lco} (hl : l.ChainLaw) {scr : ScreenId} {start : Option TileId}
    (h : l.screens[scr].pending = some start) :
    (l.setScreen scr { l.screens[scr] with active := start, pending := none }).ChainLaw := by
  refine chain_setScreen l scr _ hl ?_ fun r hr other hne => ?_
  · rintro st (hst | hst)
    · exact hl.1 scr st (.inr (h.trans (congrArg some hst)))
    · cases hst
  · obtain hr | ⟨st, hst, -⟩ := (setScreen_inChains_same l scr _ r).mp hr
    · exact ChainLaw.other hl ((inChains_iff l scr r).mpr (.inr ⟨start, h, hr⟩)) hne
    · cases hst

theorem Lco.reset_start (scr : ScreenId) : Lco.reset.screens[scr].active = none ∧ Lco.reset.screens[scr].pending = none := by
  revert scr; decide

theorem chainLaw_reset : Lco.reset.ChainLaw := by
  refine ⟨fun scr start h => ?_, fun r scr other h => ?_⟩
  · obtain ⟨hactive, hpending⟩ := Lco.reset_start scr
    rw [hactive, hpending] at h
    obtain rfl | h := h
    · trivial
    · cases h
  · obtain h | ⟨start, hp, -⟩ := (inChains_iff _ scr r).mp h
    · rw [Lco.activeChain, (Lco.reset_start scr).1] at h; cases h
    · rw [(Lco.reset_start scr).2] at hp; cases hp

theorem Move.chainLaw (h : Move A s t) (hs : s.lco.ChainLaw) : t.lco.ChainLaw := by
  cases h with
  | warp c => obtain ⟨x, y, fx, fy, hw⟩ := s.warp_frame c; rw [hw]; exact hs
  | held l => obtain ⟨cps, heq⟩ := s.setHeld_eq l; rw [heq]; exact hs
  | release f => obtain ⟨cps, heq⟩ := s.releaseKeys_eq f; rw [heq]; exact hs
  | port c new => rw [State.portMove_lco]; exact hs
  | wake c a => rw [State.wakeMove, State.portMove_lco]; exact hs
  | layout l hl => exact chain_same _ l hs hl
  | pend scr start _ hwalk => exact chainLaw_pend hs hwalk
  | applied scr start hpending => exact chainLaw_applied hs hpending
  | lastPreset n => exact chain_of_eq s.lco _ rfl rfl hs
  | settings l _ hscreens htiles => exact chain_of_eq s.lco l hscreens htiles hs
  | tile r x _ hfree => exact chain_setTile s.lco r x hs hfree
  | signal hd size => exact chain_of_eq s.lco _ rfl rfl hs
  | place scr pl _ hp =>
    obtain ⟨p, heq⟩ := State.keepPointer_frame (s.setLco (s.lco.place scr pl))
    rw [heq]
    exact chain_place s.lco scr pl hs hp
  | fullReset => exact chainLaw_reset
  | _ => exact hs

theorem tileLaw_of_tiles {l l' : Lco} (h : l'.tiles = l.tiles) (hl : l.TileLaw) : l'.TileLaw := by
  unfold Lco.TileLaw
  rw [h]
  exact hl

theorem tileLaw_of_records {l l' : Lco} (h : ∀ r : TileId, l'.tiles[r].map Tile.fixed = l.tiles[r].map Tile.fixed)
    (hl : l.TileLaw) : l'.TileLaw := by
  intro r tile ht
  have hr := h r
  rw [ht, Option.map_some] at hr
  obtain ⟨old, hold, hfixed⟩ := Option.map_eq_some_iff.mp hr.symm
  exact fixed_lawful hfixed.symm (hl r old hold)

theorem Lco.setTile_get (l : Lco) (r q : TileId) (x : Option Tile) :
    (l.setTile r x).tiles[q] = if q = r then x else l.tiles[q] := by
  by_cases h : q = r
  · subst h; simp [Lco.setTile]
  · have h' : r.val ≠ q.val := fun e => h (Fin.ext e.symm)
    simp [Lco.setTile, h, h']

theorem tileLaw_setTile {l : Lco} (hl : l.TileLaw) (r : TileId) (x : Option Tile) (hx : ∀ tile, x = some tile → tile.Lawful) :
    (l.setTile r x).TileLaw := by
  intro q tile ht
  rw [Lco.setTile_get] at ht
  split at ht
  · exact hx tile ht
  · exact hl q tile ht

theorem tileLaw_reset : Lco.reset.TileLaw := fun r _ ht =>
  absurd ((Vector.getElem_replicate r.isLt).symm.trans ht) nofun

theorem Move.tileLaw (h : Move A s t) (hs : s.lco.TileLaw) : t.lco.TileLaw := by
  cases h with
  | warp c => obtain ⟨x, y, fx, fy, hw⟩ := s.warp_frame c; rw [hw]; exact hs
  | held l => obtain ⟨cps, heq⟩ := s.setHeld_eq l; rw [heq]; exact hs
  | release f => obtain ⟨cps, heq⟩ := s.releaseKeys_eq f; rw [heq]; exact hs
  | port c new => rw [State.portMove_lco]; exact hs
  | wake c a => rw [State.wakeMove, State.portMove_lco]; exact hs
  | layout l hl => exact tileLaw_of_records hl.records hs
  | settings l _ _ htiles => exact tileLaw_of_tiles htiles hs
  | tile r x _ _ hx => exact tileLaw_setTile hs r x hx
  | place scr pl =>
    obtain ⟨p, heq⟩ := State.keepPointer_frame (s.setLco (s.lco.place scr pl))
    rw [heq]
    exact hs
  | fullReset => exact tileLaw_reset
  | _ => exact hs

/-- Settles O10, move by move. -/
theorem everyStepKeepsTheLayoutLaws : Obligations.EveryStepKeepsTheLayoutLaws := by
  unfold Obligations.EveryStepKeepsTheLayoutLaws
  exact fun s t h =>
    ⟨step_keeps (fun s => s.lco.CanvasLaw) (fun _ _ _ => Move.canvasLaw) (fun _ _ hs => hs) h,
      step_keeps (fun s => s.lco.ChainLaw) (fun _ _ _ => Move.chainLaw) (fun _ _ hs => hs) h,
      step_keeps (fun s => s.lco.TileLaw) (fun _ _ _ => Move.tileLaw) (fun _ _ hs => hs) h⟩

/-! ### The pointer -/

/-- The placements and the pointer are all the law reads. -/
theorem pointerLaw_of_sameWritten {l : Lco} (h : s.lco.SameWritten l) (hs : s.PointerLaw) : (s.setLco l).PointerLaw :=
  pointer_screens s (s.setLco l) rfl rfl (fun scr => ⟨h.placed scr, h.rect scr⟩) hs

theorem pointerLaw_of_screens {l : Lco} (h : l.screens = s.lco.screens) (hs : s.PointerLaw) : (s.setLco l).PointerLaw :=
  pointer_screens s (s.setLco l) rfl rfl (fun scr => by simp only [State.setLco_lco, h, and_self]) hs

/-- R97: the pointer is kept on a placed screen of a lawful canvas. -/
theorem pointerLaw_keepPointer (hc : s.lco.CanvasLaw) : s.keepPointer.PointerLaw := by
  unfold State.keepPointer
  split
  · next h =>
    obtain ⟨scr, hscr⟩ := Option.isSome_iff_exists.mp h
    have := holds_of_screenAt hscr
    exact this
  · exact pointer_recentre hc

theorem pointerLaw_reset : State.reset.PointerLaw := ⟨0, by decide, by decide⟩

theorem Move.pointerLaw (h : Move A s t) (hcanvas : s.lco.CanvasLaw) (hchain : s.lco.ChainLaw) (htile : s.lco.TileLaw)
    (hs : s.PointerLaw) : t.PointerLaw := by
  cases h with
  | pointer p hp => rw [hp]; exact hs
  | moved dx dy => exact pointer_moved dx dy hcanvas hs
  | warp c => exact pointer_warp c hchain htile hs
  | recentre => exact pointer_recentre hcanvas
  | held l => obtain ⟨cps, heq⟩ := s.setHeld_eq l; rw [heq]; exact hs
  | release f => obtain ⟨cps, heq⟩ := s.releaseKeys_eq f; rw [heq]; exact hs
  | port c new => obtain ⟨clp, heq⟩ := portMove_eq c new s; rw [heq, enterPort_eq]; exact hs
  | wake c a hport => obtain ⟨clp, heq⟩ := State.wakeMove_eq c a hport; rw [heq]; exact hs
  | layout l hl => exact pointerLaw_of_sameWritten hl.toSameWritten hs
  | pend scr start => exact pointerLaw_of_sameWritten (s.lco.setScreen_same scr _ rfl rfl rfl rfl) hs
  | applied scr start => exact pointerLaw_of_sameWritten (s.lco.setScreen_same scr _ rfl rfl rfl rfl) hs
  | settings l _ hscreens => exact pointerLaw_of_screens hscreens hs
  | place scr pl _ hp hr => exact pointerLaw_keepPointer (canvas_place s.lco scr pl hcanvas hp hr)
  | fullReset => exact pointerLaw_reset
  | _ => exact hs

/-- The layout laws and the pointer's, which a warp needs together. -/
def State.OnScreen (s : State) : Prop := s.lco.CanvasLaw ∧ s.lco.ChainLaw ∧ s.lco.TileLaw ∧ s.PointerLaw

theorem Move.onScreen (h : Move A s t) (hs : s.OnScreen) : t.OnScreen := by
  obtain ⟨hcanvas, hchain, htile, hpointer⟩ := hs
  exact ⟨h.canvasLaw hcanvas, h.chainLaw hchain, h.tileLaw htile, h.pointerLaw hcanvas hchain htile hpointer⟩

/-- Settles O11, move by move, with the laws of the layout. -/
theorem everyStepKeepsThePointerOnAScreen : Obligations.EveryStepKeepsThePointerOnAScreen := by
  unfold Obligations.EveryStepKeepsThePointerOnAScreen
  intro s t h hcanvas hchain htile hpointer
  exact (step_keeps State.OnScreen (fun _ _ _ => Move.onScreen) (fun _ _ hs => hs) h
    ⟨hcanvas, hchain, htile, hpointer⟩).2.2.2

end Sys2Proof.Machine
end

section
/-! The queue of commands, full reset, and what no command but some changes: the queue and the clock under every move, a desk
port's record under the moves that are not of a desk port, and the focus under HARD under the moves that set no lock. -/

namespace Sys2Proof.Machine

variable {A : List Tag} {s t : State}

/-- Settles O1: each command waiting or none. -/
theorem stepRunsTheFrontCommand : Obligations.StepRunsTheFrontCommand := by
  unfold Obligations.StepRunsTheFrontCommand
  refine ⟨fun c rest s h => ?_, fun s h => ?_⟩
  · simp only [step, h]
  · simp only [step, h]

/-! ### The queue and the clock -/

theorem exec_next (c : Instr) (s : State) : ∃ r, exec c s = .next r := by
  cases c <;> exact ⟨_, rfl⟩

/-- No move takes from the queue, and the clock never goes back. -/
theorem Move.pending_clock (h : Move A s t) : t.pending = s.pending ∧ s.clock ≤ t.clock := by
  cases h with
  | warp c => obtain ⟨x, y, fx, fy, hw⟩ := s.warp_frame c; rw [hw]; exact ⟨rfl, le_rfl⟩
  | held l => obtain ⟨cps, heq⟩ := s.setHeld_eq l; rw [heq]; exact ⟨rfl, le_rfl⟩
  | release f => obtain ⟨cps, heq⟩ := s.releaseKeys_eq f; rw [heq]; exact ⟨rfl, le_rfl⟩
  | port c new => obtain ⟨clp, heq⟩ := portMove_eq c new s; rw [heq, enterPort_eq]; exact ⟨rfl, le_rfl⟩
  | wake c a hport => obtain ⟨clp, heq⟩ := State.wakeMove_eq c a hport; rw [heq]; exact ⟨rfl, le_rfl⟩
  | place scr pl =>
    obtain ⟨p, hp⟩ := State.keepPointer_frame (s.setLco (s.lco.place scr pl))
    rw [hp]; exact ⟨rfl, le_rfl⟩
  | clock t => exact ⟨rfl, le_max_left _ _⟩
  | _ => exact ⟨rfl, le_rfl⟩

theorem exec_pending_clock {c : Instr} (h : exec c s = .next t) : t.pending = s.pending ∧ s.clock ≤ t.clock := by
  have hmoves := exec_moves c s t h
  clear h
  induction hmoves with
  | refl => exact ⟨rfl, le_rfl⟩
  | tail _ hmove ih => exact ⟨hmove.pending_clock.1.trans ih.1, ih.2.trans hmove.pending_clock.2⟩

theorem step_next (s : State) : ∃ t, step s = .next t := by
  unfold step
  split
  · exact ⟨s, rfl⟩
  · exact exec_next _ _

theorem runsFor (n : Nat) : ∀ s : State, RunsFor n s := by
  induction n with
  | zero => exact fun _ => trivial
  | succ n ih =>
    intro s
    obtain ⟨t, h⟩ := step_next s
    exact ⟨t, h, ih t⟩

/-- Settles O2. -/
theorem everyCommandCompletes : Obligations.EveryCommandCompletes := by
  unfold Obligations.EveryCommandCompletes
  refine ⟨fun c s => ?_, runsFor⟩
  obtain ⟨r, h⟩ := exec_next c s
  exact ⟨r, h, exec_pending_clock h⟩

/-! ### Full reset -/

theorem Screen.reset_get (scr : ScreenId) : Lco.reset.screens[scr] = Screen.reset scr := by
  revert scr; decide

/-- R167, R168: what a scan's start leaves on the bus, by what was there. -/
theorem Psc.scanned_eq (p : Psc) : p.scanned = { panels := [], scanner := .scanning 0, bus := some (match p.bus with
    | none => .probe 0
    | some (.probe a) => .earlierProbe a
    | some on => on) } := by
  unfold Psc.scanned
  rcases p.bus with _ | (a | a | n | ⟨n, low, high, changed⟩) <;> rfl

theorem getElem_replicate_fin {α : Type} {n : Nat} (a : α) (i : Fin n) : (Vector.replicate n a)[i] = a :=
  Vector.getElem_replicate i.isLt

/-- Settles O3, block by block. -/
theorem fullResetValues : Obligations.FullResetValues := by
  unfold Obligations.FullResetValues
  intro t s
  refine ⟨(s.at t).fullReset, rfl, rfl, rfl, getElem_replicate_fin _, getElem_replicate_fin _, rfl, getElem_replicate_fin _,
    rfl, rfl, rfl, ?comps, getElem_replicate_fin _, ?screens, getElem_replicate_fin _, rfl, getElem_replicate_fin _, rfl,
    getElem_replicate_fin _, getElem_replicate_fin _, rfl, Psc.scanned_eq s.psc, rfl, rfl, rfl, rfl⟩
  case comps => exact fun c => ⟨0, .none, State.comp_fullReset _ c⟩
  case screens => exact fun scr => ⟨none, Screen.reset_get scr⟩

/-- Settles O4: what full reset leaves empty meets the laws that speak of it. -/
theorem resetMeetsTheLaws : Obligations.ResetMeetsTheLaws := by
  unfold Obligations.ResetMeetsTheLaws
  have hcomp (c : Comp) : State.reset.comp c = Computer.reset := getElem_replicate_fin _ c
  refine ⟨nofun, nofun, ⟨fun c => ?_, nofun⟩, fun c => ?_,
    ⟨Nat.zero_le _, ⟨fun _ => rfl, fun _ => rfl⟩, Nat.zero_le _⟩, ⟨fun _ => rfl, ⟨nofun, nofun⟩⟩, fun c => ?_, linkLaw_reset,
    canvasLaw_reset, chainLaw_reset, tileLaw_reset, pointerLaw_reset⟩
  · rw [hcomp]; exact ⟨Nat.zero_le _, fun _ => ⟨rfl, rfl⟩⟩
  · rw [hcomp]; exact ⟨List.nodup_nil, fun u => ⟨nofun, fun ⟨k, hk, _⟩ => nomatch hk⟩⟩
  · rw [hcomp, show State.reset.wpc.wakes[c] = none from getElem_replicate_fin _ c]
    exact ⟨⟨nofun, nofun⟩, nofun⟩

/-! ### The desk ports and the hard lock -/

theorem Move.diu (h : Move A s t) (hdesk : .desk ∉ A) (hreset : .reset ∉ A) : t.diu = s.diu := by
  cases h with
  | warp c => obtain ⟨x, y, fx, fy, hw⟩ := s.warp_frame c; rw [hw]; rfl
  | held l => obtain ⟨cps, heq⟩ := s.setHeld_eq l; rw [heq]
  | release f => obtain ⟨cps, heq⟩ := s.releaseKeys_eq f; rw [heq]
  | port c new => obtain ⟨clp, heq⟩ := portMove_eq c new s; rw [heq, enterPort_eq]
  | wake c a hport => obtain ⟨clp, heq⟩ := State.wakeMove_eq c a hport; rw [heq]
  | place scr pl =>
    obtain ⟨p, hp⟩ := State.keepPointer_frame (s.setLco (s.lco.place scr pl))
    rw [hp]; rfl
  | deskPort p d h => exact absurd h hdesk
  | fullReset h => exact absurd h hreset
  | _ => rfl

theorem Moves.diu (h : Moves A s t) (hdesk : .desk ∉ A) (hreset : .reset ∉ A) : t.diu = s.diu := by
  induction h with
  | refl => rfl
  | tail _ hmove ih => exact (hmove.diu hdesk hreset).trans ih

/-- The focus computer, under a hard lock, and the cause it came by. -/
def Fcu.HardFocus (f g : Fcu) : Prop := g.focus = f.focus ∧ g.lock = .hard ∧ g.lastCause = f.lastCause

/-- R59, R74, R75: under HARD the focus is changed only once the lock has been cleared. -/
theorem Move.hardFocus (h : Move A s t) (hlock : .lock ∉ A) (hreset : .reset ∉ A) (hs : s.fcu.lock = .hard) :
    s.fcu.HardFocus t.fcu := by
  have hsame : s.fcu.HardFocus s.fcu := ⟨rfl, hs, rfl⟩
  cases h with
  | warp c => rw [State.warp_fcu]; exact hsame
  | unpark => exact hsame
  | unpend => exact hsame
  | dwell => exact hsame
  | focus _ _ _ h => exact absurd hs h
  | park => exact hsame
  | soft h => exact absurd (hs.symm.trans h) nofun
  | unsoft h => exact absurd (hs.symm.trans h) nofun
  | unguard => exact hsame
  | held l => rw [State.setHeld_fcu]; exact hsame
  | release f => rw [State.releaseKeys_fcu]; exact hsame
  | port c new => rw [portMove_fcu]; exact hsame
  | wake c a => rw [State.wakeMove, portMove_fcu]; exact hsame
  | hard h => exact absurd h hlock
  | unhard l h => exact absurd h hlock
  | refocus h => exact absurd h hlock
  | place scr pl =>
    obtain ⟨p, hp⟩ := State.keepPointer_frame (s.setLco (s.lco.place scr pl))
    rw [hp]; exact hsame
  | fullReset h => exact absurd h hreset
  | _ => exact hsame

theorem Moves.hardFocus (h : Moves A s t) (hlock : .lock ∉ A) (hreset : .reset ∉ A) (hs : s.fcu.lock = .hard) :
    s.fcu.HardFocus t.fcu := by
  induction h with
  | refl => exact ⟨rfl, hs, rfl⟩
  | tail _ hmove ih =>
    obtain ⟨hfocus, hhard, hcause⟩ := hmove.hardFocus hlock hreset ih.2.1
    exact ⟨hfocus.trans ih.1, hhard, hcause.trans ih.2.2⟩

theorem tagsOf_of_not_writesDeskPorts {c : Instr} (h : writesDeskPorts c = false) :
    Tag.desk ∉ tagsOf c ∧ Tag.reset ∉ tagsOf c := by
  revert h
  cases c <;> simp [writesDeskPorts, tagsOf]

theorem tagsOf_of_not_mayUnlock {c : Instr} (h : mayUnlock c = false) : Tag.lock ∉ tagsOf c ∧ Tag.reset ∉ tagsOf c := by
  revert h
  cases c <;> simp [mayUnlock, tagsOf]

/-- Settles O27, by the kinds of moves that a command makes. -/
theorem deskRecordsAndTheHardLockHold : Obligations.DeskRecordsAndTheHardLockHold := by
  unfold Obligations.DeskRecordsAndTheHardLockHold
  intro c s r h
  refine ⟨fun hdesk => ?_, fun hhard hlock => ?_⟩
  · obtain ⟨hdesk, hreset⟩ := tagsOf_of_not_writesDeskPorts hdesk
    exact (exec_moves c s r h).diu hdesk hreset
  · obtain ⟨hlock, hreset⟩ := tagsOf_of_not_mayUnlock hlock
    exact (exec_moves c s r h).hardFocus hlock hreset hhard

end Sys2Proof.Machine
end

section
/-! The control link: what each SPI transaction moves (R174, R176, R180), the notices' frames (R179, R184), and what a request
that is refused leaves (R177, R178). -/

namespace Sys2Proof.Machine

variable {s t : State}

/-! ### Transactions -/

/-- R174: outside a PUT that was accepted and a TAKE, a select forms the link status with no transaction in progress. -/
theorem Clp.select_of_free {c : Clp}
    (h : c.spi = .idle ∨ c.spi = .ignoring ∨ c.spi = .putting false ∨ ∃ status, c.spi = .selected status) :
    c.select = { c with spi := .selected { c with spi := .idle }.linkStatus, spiOut := [] } := by
  unfold Clp.select
  obtain h | h | h | ⟨status, h⟩ := h <;> rw [h]

theorem Clp.select_of_busy {c : Clp} (h : c.spi = .putting true ∨ ∃ f q, c.spi = .taking f q) : c.select = c := by
  unfold Clp.select
  obtain h | ⟨f, q, h⟩ := h <;> rw [h]

theorem Clp.places_of_selected {c : Clp} {status : Byte} (h : c.spi = .selected status) : c.places = c.inbound.length := by
  rw [Clp.places_eq, h]
  rfl

theorem Clp.putAcceptable_iff (c : Clp) : c.putAcceptable = true ↔ c.places < 4 ∧ c.outbound.length + c.places < 32 := by
  simp only [Clp.putAcceptable, Bool.and_eq_true, decide_eq_true_eq]

/-- R174: the two bits of the link status. -/
theorem Clp.linkStatus_bits (c : Clp) :
    (c.linkStatus.getLsbD 0 = true ↔ c.putAcceptable = true) ∧ (c.linkStatus.getLsbD 1 = true ↔ c.outbound ≠ []) ∧
      c.linkStatus < 4 := by
  unfold Clp.linkStatus
  by_cases h : c.outbound = [] <;>
    simp only [h, if_true, if_false, ne_eq, not_true_eq_false, not_false_eq_true, iff_false, iff_true] <;>
    cases c.putAcceptable <;> decide

theorem Clp.openPut_of_not_selected {c : Clp} (h : ∀ status, c.spi ≠ .selected status) : c.openPut = c := by
  unfold Clp.openPut
  split
  · next status hspi => exact absurd hspi (h status)
  · rfl

theorem Clp.openTake_of_not_selected {c : Clp} (h : ∀ status, c.spi ≠ .selected status) : c.openTake = c := by
  unfold Clp.openTake
  split
  · next status hspi => exact absurd hspi (h status)
  · rfl

theorem Clp.openOther_of_not_selected {c : Clp} (h : ∀ status, c.spi ≠ .selected status) (bytes : List Byte) :
    c.openOther bytes = c := by
  unfold Clp.openOther
  split
  · next status hspi => exact absurd hspi (h status)
  · rfl

theorem Clp.openPut_of_selected {c : Clp} {status : Byte} (h : c.spi = .selected status) :
    c.openPut = { c with spi := .putting c.putAcceptable, spiOut := [status] } := by
  simp only [Clp.openPut, h]

theorem Clp.openTake_of_selected {c : Clp} {status : Byte} (h : c.spi = .selected status) :
    c.openTake = { c with spi := .taking c.outbound.head? true, spiOut := [status] } := by
  simp only [Clp.openTake, h]

theorem Clp.closePut_of_putting {c : Clp} {acceptable : Bool} (h : c.spi = .putting acceptable) (bytes : List Byte) :
    c.closePut bytes = { c with
      spi := .idle, spiOut := c.spiOut ++ List.replicate bytes.length 0,
      inbound := if acceptable then c.inbound ++ (requestOf bytes).toList else c.inbound } := by
  simp only [Clp.closePut, h]

theorem Clp.closePut_of_other {c : Clp} (h : ∀ a, c.spi ≠ .putting a) (bytes : List Byte) : c.closePut bytes = c := by
  unfold Clp.closePut
  split
  · next a hspi => exact absurd hspi (h a)
  · rfl

/-- R176: fewer than three bytes are no request. -/
theorem requestOf_short {bytes : List Byte} (h : bytes.length < 3) : requestOf bytes = none := by
  obtain _ | ⟨a, _ | ⟨b, _ | ⟨c, more⟩⟩⟩ := bytes
  · rfl
  · rfl
  · rfl
  · simp only [List.length_cons] at h; omega

theorem Clp.closeTake_of_taking {c : Clp} {frame : Option Frame} {queued : Bool} (h : c.spi = .taking frame queued) (n : Nat) :
    c.closeTake n = { c with
      spi := .idle, spiOut := c.spiOut ++ takeBytes frame n,
      outbound := if queued && clockedWhole frame n then c.outbound.drop 1 else c.outbound } := by
  simp only [Clp.closeTake, h]

theorem Clp.closeTake_of_other {c : Clp} (h : ∀ frame queued, c.spi ≠ .taking frame queued) (n : Nat) : c.closeTake n = c := by
  unfold Clp.closeTake
  split
  · next frame queued hspi => exact absurd hspi (h frame queued)
  · rfl

/-- R180: with no frame fixed the part clocks out zeros and removes nothing. -/
theorem takeBytes_none (n : Nat) : takeBytes none n = List.replicate n 0 := by
  simp [takeBytes]

/-- Settles O57, transaction by transaction. -/
theorem spiTransactionsMoveFrames : Obligations.SpiTransactionsMoveFrames := by
  unfold Obligations.SpiTransactionsMoveFrames
  intro t s clp wrote acceptable
  have hsame {c : Instr} {c' : Clp} (hexec : exec c s = .next ((s.at t).setClp c')) (h : c' = s.clp) :
      exec c s = .next (s.at t) := by rw [hexec, h]; rfl
  have hwrote {c : Instr} {c' c'' : Clp} (hexec : exec c s = .next ((s.at t).setClp c')) (h : c' = c'') :
      exec c s = .next (wrote c'') := by rw [hexec, h]; rfl
  refine ⟨fun h => ?select, fun h => hsame rfl (Clp.select_of_busy h), fun status h => ⟨fun hacc => ?_, fun hacc => ?_,
    hwrote rfl (Clp.openTake_of_selected h), fun opening later => hwrote rfl (Clp.openOther_selected _ _ _ _ h), hsame rfl rfl⟩,
    fun h => ⟨hsame rfl (Clp.openPut_of_not_selected h), hsame rfl (Clp.openTake_of_not_selected h),
      fun bytes => hsame rfl (Clp.openOther_of_not_selected h bytes)⟩, fun bytes => ?deselect, fun n => ?takeDeselect⟩
  case select =>
    have hplaces : ({ clp with spi := .idle } : Clp).places = clp.inbound.length := rfl
    obtain ⟨hput, hframe, hrange⟩ := Clp.linkStatus_bits { clp with spi := .idle }
    rw [Clp.putAcceptable_iff, hplaces] at hput
    exact ⟨_, hwrote rfl (Clp.select_of_free h), hput, hframe, hrange⟩
  case deselect =>
    intro zeros
    refine ⟨?_, fun hshort h => ?_, fun h => hwrote rfl (Clp.closePut_of_putting h bytes),
      fun h => hsame rfl (Clp.closePut_of_other h bytes)⟩
    · rintro kind tag len more rfl h
      exact hwrote rfl (Clp.closePut_of_putting h _)
    · refine hwrote rfl ((Clp.closePut_of_putting h bytes).trans ?_)
      rw [requestOf_short hshort, Option.toList_none, List.append_nil, ite_self]
  case takeDeselect =>
    refine ⟨fun frame queued h => ?_, fun queued h => ?_, fun h => hsame rfl (Clp.closeTake_of_other h n)⟩
    · intro sent
      refine hwrote rfl ((Clp.closeTake_of_taking h n).trans ?_)
      have hwhole : (queued && clockedWhole (some frame) n) = true ↔ queued = true ∧ sent.length ≤ n := by
        rw [Bool.and_eq_true]; exact and_congr_right fun _ => decide_eq_true_iff
      simp only [hwhole, takeBytes, Option.map_some, Option.getD_some, List.append_assoc]
      rfl
    · refine hwrote rfl ((Clp.closeTake_of_taking h n).trans ?_)
      rw [takeBytes_none, clockedWhole, Bool.and_false]
      rfl
  · have hyes : clp.putAcceptable = true := by rw [Clp.putAcceptable_iff, Clp.places_of_selected h]; exact hacc
    exact hwrote rfl ((Clp.openPut_of_selected h).trans (by rw [hyes]))
  · have hno : clp.putAcceptable = false := by
      rw [Bool.eq_false_iff, ne_eq, Clp.putAcceptable_iff, Clp.places_of_selected h]; exact hacc
    exact hwrote rfl ((Clp.openPut_of_selected h).trans (by rw [hno]))

/-! ### Notices -/

theorem Clp.queueNotice_of_room {c : Clp} (h : c.outbound.length + c.places < 32) (n : Notice) :
    c.queueNotice n = { c with outbound := c.outbound ++ [n.frame c.lost], lost := false } := if_pos h

theorem Clp.queueNotice_of_full {c : Clp} (h : 32 ≤ c.outbound.length + c.places) (n : Notice) :
    c.queueNotice n = { c with lost := true } := if_neg (Nat.not_lt.mpr h)

theorem chainApplied_body (scr : ScreenId) (start : Option TileId) (atOnce : Bool) :
    (Notice.chainApplied scr start atOnce).body = byte scr.val :: startField start ++ [flagByte atOnce] := rfl

/-- Settles O58: the room, and the tables as they are written out. -/
theorem noticesAreQueuedOrLost : Obligations.NoticesAreQueuedOrLost := by
  unfold Obligations.NoticesAreQueuedOrLost
  refine ⟨fun c n => ⟨fun h => Clp.queueNotice_of_room h n, fun h => Clp.queueNotice_of_full h n⟩, fun _ _ _ => rfl,
    rfl, rfl, rfl, rfl, rfl, fun _ => ⟨rfl, rfl⟩, fun _ => rfl, rfl, rfl, rfl, rfl, rfl, rfl, rfl, rfl, rfl, rfl, rfl, rfl,
    fun _ _ _ => ⟨rfl, rfl⟩, fun _ _ _ _ => ⟨rfl, rfl⟩, fun _ _ _ _ _ => ⟨rfl, rfl⟩, fun _ _ _ _ => ⟨rfl, rfl⟩,
    fun _ _ _ _ => ⟨rfl, rfl⟩, fun _ _ _ _ _ => ⟨rfl, rfl⟩, fun _ _ _ => ⟨rfl, rfl⟩, fun scr r atOnce => ⟨rfl, ?_, rfl⟩,
    fun _ _ _ => ⟨rfl, rfl, rfl⟩, fun _ _ _ => ⟨rfl, rfl⟩, fun _ _ _ => ⟨rfl, rfl⟩, fun _ _ => ⟨rfl, rfl⟩,
    fun p st => ⟨rfl, ?_⟩, fun _ _ _ => ⟨rfl, rfl⟩⟩
  · rw [chainApplied_body, startField_some]
    rfl
  · rcases st with _ | d | ⟨mods, keys⟩ | buttons | (_ | _ | _) <;> rfl

/-! ### Requests -/

/-- An answer other than OK leaves the state as the owning block found it. -/
def UnchangedUnlessOk (s : State) (answer : State × Reply) : Prop := answer.2.status ≠ .ok → answer.1 = s

@[simp] theorem unchangedUnlessOk_same (s : State) (rep : Reply) : UnchangedUnlessOk s (s, rep) := fun _ => rfl

@[simp] theorem unchangedUnlessOk_ok (s u : State) : UnchangedUnlessOk s (u, .bare .ok) := fun h => absurd rfl h

@[simp] theorem unchangedUnlessOk_okWith (s u : State) (data : List Byte) : UnchangedUnlessOk s (u, .okWith data) := fun h => absurd rfl h

/-- What the owning block of a kind does with the link and, where it refuses, with everything: PLACE SCREEN alone tells the
Pointer Unit of a refusal (R97), and a READ request changes nothing. -/
structure OwnerKeeps (kind : Byte) (owner : List Byte → State → State × Reply) : Prop where
  inbound : ∀ p s, (owner p s).1.clp.inbound = s.clp.inbound
  refused : kind ≠ 0x03 → ∀ p s, UnchangedUnlessOk s (owner p s)
  read : 0x17 ≤ kind → ∀ p s, (owner p s).1 = s

/-- An owner that makes no move of the link, and whose answers other than OK leave the state. -/
theorem OwnerKeeps.of_moves {kind : Byte} {owner : List Byte → State → State × Reply}
    (hm : ∀ p s, Moves [.write, .keys, .preset, .lock] s (owner p s).1) (hk : kind < 0x17)
    (hrefused : ∀ p s, UnchangedUnlessOk s (owner p s)) : OwnerKeeps kind owner :=
  ⟨fun p s => ((hm p s).inbound (by decide) (by decide)).1, fun _ => hrefused, fun h => absurd h (by bv_omega)⟩

theorem OwnerKeeps.of_read {kind : Byte} {owner : List Byte → State → State × Reply} (h : ∀ p s, (owner p s).1 = s) :
    OwnerKeeps kind owner := ⟨fun p s => by rw [h], fun _ p s _ => h p s, fun _ => h⟩

section
variable (p : List Byte) (s : State)

@[simp] theorem hostFocus_unchangedUnlessOk (c : Comp) (forced : Bool) : UnchangedUnlessOk s (s.hostFocus c forced) := by
  unfold State.hostFocus
  split
  · exact unchangedUnlessOk_same _ _
  · exact unchangedUnlessOk_same _ _
  · exact unchangedUnlessOk_okWith _ _ _

@[simp] theorem hostWake_unchangedUnlessOk (c : Comp) : UnchangedUnlessOk s (s.hostWake c) := by
  unfold State.hostWake
  split
  · exact unchangedUnlessOk_okWith _ _ _
  · split
    · exact unchangedUnlessOk_okWith _ _ _
    · exact unchangedUnlessOk_same _ _
  · exact unchangedUnlessOk_same _ _

@[simp] theorem chainFor_unchangedUnlessOk (scr : ScreenId) (start : Option TileId) : UnchangedUnlessOk s (s.chainFor scr start) := by
  unfold State.chainFor
  split
  · exact unchangedUnlessOk_same _ _
  · split
    · exact unchangedUnlessOk_same _ _
    · exact unchangedUnlessOk_okWith _ _ _

end

theorem requestSetComputer_unchangedUnlessOk (p : List Byte) (s : State) : UnchangedUnlessOk s (requestSetComputer p s) := by
  unfold requestSetComputer
  split
  · simp
  · split
    · simp
    · dsimp only
      split <;> simp

theorem requestSetHead_unchangedUnlessOk (p : List Byte) (s : State) : UnchangedUnlessOk s (requestSetHead p s) := by
  unfold requestSetHead
  repeat' split
  all_goals simp

theorem requestSetPointer_unchangedUnlessOk (p : List Byte) (s : State) : UnchangedUnlessOk s (requestSetPointer p s) := by
  unfold requestSetPointer
  repeat' split
  all_goals simp

theorem requestSetHotkeyTiming_unchangedUnlessOk (p : List Byte) (s : State) : UnchangedUnlessOk s (requestSetHotkeyTiming p s) := by
  unfold requestSetHotkeyTiming
  repeat' split
  all_goals simp

theorem requestWriteHotkey_unchangedUnlessOk (p : List Byte) (s : State) : UnchangedUnlessOk s (requestWriteHotkey p s) := by
  unfold requestWriteHotkey
  repeat' split
  all_goals simp

theorem requestWriteRule_unchangedUnlessOk (p : List Byte) (s : State) : UnchangedUnlessOk s (requestWriteRule p s) := by
  unfold requestWriteRule
  repeat' split
  all_goals simp

theorem requestSetBorderColours_unchangedUnlessOk (p : List Byte) (s : State) : UnchangedUnlessOk s (requestSetBorderColours p s) := by
  unfold requestSetBorderColours
  repeat' split
  all_goals simp

theorem requestSetPowerTiming_unchangedUnlessOk (p : List Byte) (s : State) : UnchangedUnlessOk s (requestSetPowerTiming p s) := by
  unfold requestSetPowerTiming
  repeat' split
  all_goals simp

theorem requestWriteTile_unchangedUnlessOk (p : List Byte) (s : State) : UnchangedUnlessOk s (requestWriteTile p s) := by
  unfold requestWriteTile
  repeat' split
  all_goals simp

theorem requestFreeTile_unchangedUnlessOk (p : List Byte) (s : State) : UnchangedUnlessOk s (requestFreeTile p s) := by
  unfold requestFreeTile
  dsimp only
  repeat' split
  all_goals simp

theorem requestSetChain_unchangedUnlessOk (p : List Byte) (s : State) : UnchangedUnlessOk s (requestSetChain p s) := by
  unfold requestSetChain
  repeat' split
  all_goals simp

theorem requestWritePreset_unchangedUnlessOk (p : List Byte) (s : State) : UnchangedUnlessOk s (requestWritePreset p s) := by
  unfold requestWritePreset
  repeat' split
  all_goals simp

theorem requestApplyPreset_unchangedUnlessOk (p : List Byte) (s : State) : UnchangedUnlessOk s (requestApplyPreset p s) := by
  unfold requestApplyPreset
  repeat' split
  all_goals simp

theorem requestFlipTile_unchangedUnlessOk (p : List Byte) (s : State) : UnchangedUnlessOk s (requestFlipTile p s) := by
  unfold requestFlipTile
  dsimp only
  repeat' split
  all_goals simp

theorem requestSetFocus_unchangedUnlessOk (p : List Byte) (s : State) : UnchangedUnlessOk s (requestSetFocus p s) := by
  unfold requestSetFocus
  repeat' split
  all_goals simp

theorem requestSetLock_unchangedUnlessOk (p : List Byte) (s : State) : UnchangedUnlessOk s (requestSetLock p s) := by
  unfold requestSetLock
  repeat' split
  all_goals simp

theorem requestWakeComputer_unchangedUnlessOk (p : List Byte) (s : State) : UnchangedUnlessOk s (requestWakeComputer p s) := by
  unfold requestWakeComputer
  repeat' split
  all_goals simp

theorem requestDeskSleep_unchangedUnlessOk (p : List Byte) (s : State) : UnchangedUnlessOk s (requestDeskSleep p s) := by
  unfold requestDeskSleep
  repeat' split
  all_goals simp

theorem requestDeskWake_unchangedUnlessOk (p : List Byte) (s : State) : UnchangedUnlessOk s (requestDeskWake p s) := by
  unfold requestDeskWake
  repeat' split
  all_goals simp

theorem requestScanPanels_unchangedUnlessOk (p : List Byte) (s : State) : UnchangedUnlessOk s (requestScanPanels p s) := by
  unfold requestScanPanels
  repeat' split
  all_goals simp

theorem requestSetComputer_keeps : OwnerKeeps 0x01 requestSetComputer :=
  .of_moves (fun p s => requestSetComputer_moves (by decide) p s) (by decide) requestSetComputer_unchangedUnlessOk

theorem requestSetHead_keeps : OwnerKeeps 0x02 requestSetHead :=
  .of_moves (fun p s => requestSetHead_moves (by decide) p s) (by decide) requestSetHead_unchangedUnlessOk

theorem requestSetPointer_keeps : OwnerKeeps 0x04 requestSetPointer :=
  .of_moves (fun p s => requestSetPointer_moves (by decide) p s) (by decide) requestSetPointer_unchangedUnlessOk

theorem requestSetHotkeyTiming_keeps : OwnerKeeps 0x05 requestSetHotkeyTiming :=
  .of_moves (fun p s => requestSetHotkeyTiming_moves (by decide) p s (by decide)) (by decide) requestSetHotkeyTiming_unchangedUnlessOk

theorem requestWriteHotkey_keeps : OwnerKeeps 0x06 requestWriteHotkey :=
  .of_moves (fun p s => requestWriteHotkey_moves (by decide) p s) (by decide) requestWriteHotkey_unchangedUnlessOk

theorem requestWriteRule_keeps : OwnerKeeps 0x07 requestWriteRule :=
  .of_moves (fun p s => requestWriteRule_moves (by decide) p s) (by decide) requestWriteRule_unchangedUnlessOk

theorem requestSetBorderColours_keeps : OwnerKeeps 0x08 requestSetBorderColours :=
  .of_moves (fun p s => requestSetBorderColours_moves (by decide) p s) (by decide) requestSetBorderColours_unchangedUnlessOk

theorem requestSetPowerTiming_keeps : OwnerKeeps 0x09 requestSetPowerTiming :=
  .of_moves (fun p s => requestSetPowerTiming_moves (by decide) p s) (by decide) requestSetPowerTiming_unchangedUnlessOk

theorem requestWriteTile_keeps : OwnerKeeps 0x0A requestWriteTile :=
  .of_moves (fun p s => requestWriteTile_moves (by decide) p s) (by decide) requestWriteTile_unchangedUnlessOk

theorem requestFreeTile_keeps : OwnerKeeps 0x0B requestFreeTile :=
  .of_moves (fun p s => requestFreeTile_moves (by decide) p s) (by decide) requestFreeTile_unchangedUnlessOk

theorem requestSetChain_keeps : OwnerKeeps 0x0C requestSetChain :=
  .of_moves (fun p s => requestSetChain_moves p s) (by decide) requestSetChain_unchangedUnlessOk

theorem requestWritePreset_keeps : OwnerKeeps 0x0D requestWritePreset :=
  .of_moves (fun p s => requestWritePreset_moves (by decide) p s) (by decide) requestWritePreset_unchangedUnlessOk

theorem requestApplyPreset_keeps : OwnerKeeps 0x0E requestApplyPreset :=
  .of_moves (fun p s => requestApplyPreset_moves p s (by decide)) (by decide) requestApplyPreset_unchangedUnlessOk

theorem requestFlipTile_keeps : OwnerKeeps 0x0F requestFlipTile :=
  .of_moves (fun p s => requestFlipTile_moves p s) (by decide) requestFlipTile_unchangedUnlessOk

theorem requestSetFocus_keeps : OwnerKeeps 0x10 requestSetFocus :=
  .of_moves (fun p s => requestSetFocus_moves p s (by decide)) (by decide) requestSetFocus_unchangedUnlessOk

theorem requestSetLock_keeps : OwnerKeeps 0x11 requestSetLock :=
  .of_moves (fun p s => requestSetLock_moves p s (by decide)) (by decide) requestSetLock_unchangedUnlessOk

theorem requestWakeComputer_keeps : OwnerKeeps 0x12 requestWakeComputer :=
  .of_moves (fun p s => requestWakeComputer_moves p s) (by decide) requestWakeComputer_unchangedUnlessOk

theorem requestDeskSleep_keeps : OwnerKeeps 0x13 requestDeskSleep :=
  .of_moves (fun p s => requestDeskSleep_moves p s) (by decide) requestDeskSleep_unchangedUnlessOk

theorem requestDeskWake_keeps : OwnerKeeps 0x14 requestDeskWake :=
  .of_moves (fun p s => requestDeskWake_moves p s) (by decide) requestDeskWake_unchangedUnlessOk

theorem requestScanPanels_keeps : OwnerKeeps 0x15 requestScanPanels :=
  .of_moves (fun p s => requestScanPanels_moves p s) (by decide) requestScanPanels_unchangedUnlessOk

theorem requestReadComputer_keeps : OwnerKeeps 0x17 requestReadComputer := .of_read fun _ _ => rfl

theorem requestReadScreen_keeps : OwnerKeeps 0x18 requestReadScreen := .of_read fun _ _ => rfl

theorem requestReadTile_keeps : OwnerKeeps 0x19 requestReadTile := .of_read fun _ _ => rfl

theorem requestReadFocus_keeps : OwnerKeeps 0x1A requestReadFocus := .of_read fun _ _ => rfl

theorem requestReadHead_keeps : OwnerKeeps 0x1B requestReadHead := .of_read fun _ _ => rfl

theorem requestReadDesk_keeps : OwnerKeeps 0x1C requestReadDesk := .of_read fun _ _ => rfl

theorem requestReadPanels_keeps : OwnerKeeps 0x1D requestReadPanels := .of_read fun _ _ => rfl

theorem requestReadEntry_keeps : OwnerKeeps 0x1E requestReadEntry := .of_read fun _ _ => rfl

theorem requestPlaceScreen_keeps : OwnerKeeps 0x03 requestPlaceScreen :=
  ⟨fun p s => ((requestPlaceScreen_moves (A := [.write]) (by decide) p s).inbound (by decide) (by decide)).1,
    fun h => absurd rfl h, fun h => absurd h (by decide)⟩

/-- A whole request of a kind reaches its owning block, whose reply takes the request's place (R177). -/
theorem OwnerKeeps.execute_asks {kind tag : Byte} {payload : List Byte} {rest : List Request}
    {owner : List Byte → State → State × Reply} (howner : OwnerKeeps kind owner) (hk : kind < 0x80)
    (h : s.Asks kind tag payload rest) (t : Time) {u : State} {rep : Reply} (ho : owner payload (s.at t) = (u, rep)) :
    s.execute kind t owner = u.answered kind tag rest (rep.status.code :: rep.data) := by
  have hinbound := howner.inbound payload (s.at t)
  rw [ho] at hinbound
  exact Machine.execute_asks h hk t owner ho hinbound

/-- The same for the request's command, with the reply's bytes in the form that is wanted. -/
theorem OwnerKeeps.exec_asks {kind tag : Byte} {payload data : List Byte} {rest : List Request} {t : Time} {c : Instr}
    {owner : List Byte → State → State × Reply} {u : State} {rep : Reply} (howner : OwnerKeeps kind owner)
    (h : s.Asks kind tag payload rest) (ho : owner payload (s.at t) = (u, rep)) (hk : kind < 0x80 := by decide)
    (hexec : exec c s = .next (s.execute kind t owner) := by rfl) (hdata : rep.status.code :: rep.data = data := by rfl) :
    exec c s = .next (u.answered kind tag rest data) := by
  rw [hexec, howner.execute_asks hk h t ho, hdata]

/-- A request command but RESTART is its kind's owning block, executed on the oldest request (R177). -/
theorem requestKind_execute {c : Instr} {k : Byte} (h : requestKind c = some k) :
    (∃ t owner, (∀ s, exec c s = .next (s.execute k t owner)) ∧ OwnerKeeps k owner) ∨ (k = 0x16 ∧ ∃ t, c = .restart t) := by
  cases c <;> simp only [requestKind, Option.some.injEq, reduceCtorEq] at h <;> subst h
  case restart t => exact .inr ⟨rfl, t, rfl⟩
  case readComputer t => exact .inl ⟨t, requestReadComputer, fun _ => rfl, requestReadComputer_keeps⟩
  case readScreen t => exact .inl ⟨t, requestReadScreen, fun _ => rfl, requestReadScreen_keeps⟩
  case readTile t => exact .inl ⟨t, requestReadTile, fun _ => rfl, requestReadTile_keeps⟩
  case readFocus t => exact .inl ⟨t, requestReadFocus, fun _ => rfl, requestReadFocus_keeps⟩
  case readHead t => exact .inl ⟨t, requestReadHead, fun _ => rfl, requestReadHead_keeps⟩
  case readDesk t => exact .inl ⟨t, requestReadDesk, fun _ => rfl, requestReadDesk_keeps⟩
  case readPanels t => exact .inl ⟨t, requestReadPanels, fun _ => rfl, requestReadPanels_keeps⟩
  case readEntry t => exact .inl ⟨t, requestReadEntry, fun _ => rfl, requestReadEntry_keeps⟩
  case placeScreen t => exact .inl ⟨t, requestPlaceScreen, fun _ => rfl, requestPlaceScreen_keeps⟩
  case setComputer t => exact .inl ⟨t, requestSetComputer, fun _ => rfl, requestSetComputer_keeps⟩
  case setHead t => exact .inl ⟨t, requestSetHead, fun _ => rfl, requestSetHead_keeps⟩
  case setPointer t => exact .inl ⟨t, requestSetPointer, fun _ => rfl, requestSetPointer_keeps⟩
  case setHotkeyTiming t => exact .inl ⟨t, requestSetHotkeyTiming, fun _ => rfl, requestSetHotkeyTiming_keeps⟩
  case writeHotkey t => exact .inl ⟨t, requestWriteHotkey, fun _ => rfl, requestWriteHotkey_keeps⟩
  case writeRule t => exact .inl ⟨t, requestWriteRule, fun _ => rfl, requestWriteRule_keeps⟩
  case setBorderColours t => exact .inl ⟨t, requestSetBorderColours, fun _ => rfl, requestSetBorderColours_keeps⟩
  case setPowerTiming t => exact .inl ⟨t, requestSetPowerTiming, fun _ => rfl, requestSetPowerTiming_keeps⟩
  case writeTile t => exact .inl ⟨t, requestWriteTile, fun _ => rfl, requestWriteTile_keeps⟩
  case freeTile t => exact .inl ⟨t, requestFreeTile, fun _ => rfl, requestFreeTile_keeps⟩
  case setChain t => exact .inl ⟨t, requestSetChain, fun _ => rfl, requestSetChain_keeps⟩
  case writePreset t => exact .inl ⟨t, requestWritePreset, fun _ => rfl, requestWritePreset_keeps⟩
  case applyPreset t => exact .inl ⟨t, requestApplyPreset, fun _ => rfl, requestApplyPreset_keeps⟩
  case flipTile t => exact .inl ⟨t, requestFlipTile, fun _ => rfl, requestFlipTile_keeps⟩
  case setFocus t => exact .inl ⟨t, requestSetFocus, fun _ => rfl, requestSetFocus_keeps⟩
  case setLock t => exact .inl ⟨t, requestSetLock, fun _ => rfl, requestSetLock_keeps⟩
  case wakeComputer t => exact .inl ⟨t, requestWakeComputer, fun _ => rfl, requestWakeComputer_keeps⟩
  case deskSleep t => exact .inl ⟨t, requestDeskSleep, fun _ => rfl, requestDeskSleep_keeps⟩
  case deskWake t => exact .inl ⟨t, requestDeskWake, fun _ => rfl, requestDeskWake_keeps⟩
  case scanPanels t => exact .inl ⟨t, requestScanPanels, fun _ => rfl, requestScanPanels_keeps⟩

theorem execute_of_no_request {kind : Byte} {owner : List Byte → State → State × Reply}
    (h : ∀ r rest, s.clp.inbound = r :: rest → r.kind ≠ kind) (t : Time) : s.execute kind t owner = s.at t := by
  unfold State.execute
  split
  · rfl
  · next r rest hin => exact if_neg (h r rest hin)

theorem execute_of_request {r : Request} {rest : List Request} (h : s.clp.inbound = r :: rest) (t : Time)
    (owner : List Byte → State → State × Reply) :
    s.execute r.kind t owner = State.reply r (if r.frameOk then owner r.body (s.at t) else (s.at t, .bare .badLength)) := by
  have hin : (s.at t).clp.inbound = r :: rest := h
  simp only [State.execute, hin, if_true]

theorem frameOk_eq_false {r : Request} (h : 60 < r.lengthByte.toNat ∨ r.count ≠ r.lengthByte.toNat) : r.frameOk = false := by
  simp only [Request.frameOk, Bool.and_eq_false_iff, decide_eq_false_iff_not]
  omega

theorem clock_le_at (s : State) (t : Time) : s.clock ≤ (s.at t).clock := Nat.le_max_left _ _

theorem requestKind_lt {c : Instr} {k : Byte} (h : requestKind c = some k) : k < 0x80 := by
  cases c <;> simp only [requestKind, Option.some.injEq, reduceCtorEq] at h <;> subst h <;> decide

theorem restart_of_no_request (h : ∀ r rest, s.clp.inbound = r :: rest → r.kind ≠ 0x16) (t : Time) : s.restart t = s.at t := by
  unfold State.restart
  split
  · rfl
  · next r rest hin => exact if_neg (h r rest hin)

theorem restart_of_not_ok {r : Request} {rest : List Request} (h : s.clp.inbound = r :: rest) (hk : r.kind = 0x16)
    (hok : ¬ (r.frameOk = true ∧ r.body = [])) (t : Time) : s.restart t = State.reply r (s.at t, .bare .badLength) := by
  have hin : (s.at t).clp.inbound = r :: rest := h
  simp only [State.restart, hin, hk, if_true, if_neg hok]

theorem kindKnown_iff (kind : Byte) : kindKnown kind = true ↔ ¬ (kind = 0 ∨ 0x1E < kind) := by
  simp only [kindKnown, Bool.and_eq_true, decide_eq_true_eq]
  bv_omega

/-- A reply of another status than OK, or of a READ request, leaves everything but the link. -/
theorem reply_unchanged {r : Request} {rest : List Request} {answer : State × Reply} {q : List Frame} {f : Frame}
    (hin : s.clp.inbound = r :: rest) (hrefused : UnchangedUnlessOk s answer ∨ answer.1 = s)
    (hout : (State.reply r answer).clp.outbound = q ++ [f]) (hf : f.payload.head? ≠ some 0 ∨ answer.1 = s) :
    State.reply r answer = { s with clp := (State.reply r answer).clp } ∧ (State.reply r answer).clp.inbound = rest := by
  have hframe : f = answer.2.frame r.kind r.tag := (List.append_inj' hout rfl).2 |> List.singleton_inj.mp |>.symm
  have hsame : answer.1 = s := by
    obtain hrefused | hsame := hrefused
    · obtain hf | hsame := hf
      · refine hrefused fun hok => hf ?_
        rw [hframe, Reply.frame, List.head?_cons, hok]
        rfl
      · exact hsame
    · exact hsame
  unfold State.reply
  rw [hsame]
  exact ⟨rfl, by simp only [State.setClp, Clp.sendReply, hin, List.drop_succ_cons, List.drop_zero]⟩

/-- What the frame check and the owning block together keep (R178). -/
theorem OwnerKeeps.checked_refused {kind : Byte} {owner : List Byte → State → State × Reply} (h : OwnerKeeps kind owner)
    (r : Request) (hk : kind ≠ 0x03) (s : State) :
    UnchangedUnlessOk s (if r.frameOk then owner r.body s else (s, .bare .badLength)) := by
  split
  · exact h.refused hk _ _
  · exact unchangedUnlessOk_same _ _

theorem OwnerKeeps.checked_read {kind : Byte} {owner : List Byte → State → State × Reply} (h : OwnerKeeps kind owner)
    (r : Request) (hk : 0x17 ≤ kind) (s : State) :
    (if r.frameOk then owner r.body s else (s, .bare .badLength)).1 = s := by
  split
  · exact h.read hk _ _
  · rfl

/-- Settles O59: what every owning block keeps, and RESTART's own check. -/
theorem refusedRequestsChangeNothing : Obligations.RefusedRequestsChangeNothing := by
  unfold Obligations.RefusedRequestsChangeNothing
  refine ⟨fun t s r rest hin => ?unknown, fun c k s r rest hc hin hk hbad => ?badLength, fun c k s hc hnone => ?none,
    fun c k s u r rest q f hc hin hk hexec hout hf => ?refused⟩
  case unknown =>
    have hat : (s.at t).clp.inbound = r :: rest := hin
    have hexec : exec (.unknownRequest t) s =
        .next (if kindKnown r.kind then s.at t else State.reply r (s.at t, .bare .badKind)) := by
      change Host.Outcome.next (s.executeUnknown t) = _
      simp only [State.executeUnknown, hat]
    intro reply
    refine ⟨fun hunknown => ?_, fun hlow hhigh => ?_⟩
    · rw [hexec, if_neg (fun h => (kindKnown_iff _).mp h hunknown)]
      simp only [State.reply, Clp.sendReply, State.setClp, hat, List.drop_succ_cons, List.drop_zero]
      rfl
    · rw [hexec, if_pos ((kindKnown_iff _).mpr (by bv_omega))]
  case badLength =>
    subst hk
    have hreply (t : Time) : State.reply r (s.at t, .bare .badLength) = (s.at t).answered r.kind r.tag rest [2] :=
      reply_answered r _ _ (requestKind_lt hc) hin
    obtain ⟨t, owner, hexec, -⟩ | ⟨hk, t, rfl⟩ := requestKind_execute hc
    · refine ⟨_, clock_le_at s t, ?_⟩
      rw [hexec, execute_of_request hin, frameOk_eq_false hbad, if_neg Bool.false_ne_true, hreply]
      rfl
    · refine ⟨_, clock_le_at s t, ?_⟩
      change Host.Outcome.next (s.restart t) = _
      rw [restart_of_not_ok hin hk (by simp [frameOk_eq_false hbad]), hreply]
      rfl
  case none =>
    obtain ⟨t, owner, hexec, -⟩ | ⟨rfl, t, rfl⟩ := requestKind_execute hc
    · exact ⟨_, clock_le_at s t, by rw [hexec, execute_of_no_request hnone]; rfl⟩
    · refine ⟨_, clock_le_at s t, ?_⟩
      change Host.Outcome.next (s.restart t) = _
      rw [restart_of_no_request hnone]
      rfl
  case refused =>
    subst hk
    obtain ⟨t, owner, hexec', howner⟩ | ⟨hk, t, rfl⟩ := requestKind_execute hc
    · rw [hexec', execute_of_request hin, Host.Outcome.next.injEq] at hexec
      subst hexec
      have hkeeps : ((f.payload.head? ≠ some 0 ∧ r.kind ≠ 0x03) ∨ 0x17 ≤ r.kind) := hf.imp (fun h => ⟨h.1, h.2.1⟩) id
      obtain ⟨hsame, hrest⟩ := reply_unchanged (s := s.at t) hin
        (hkeeps.imp (fun h => howner.checked_refused r h.2 _) (howner.checked_read r · _)) hout
        (hkeeps.imp And.left (howner.checked_read r · _))
      refine ⟨?_, hrest⟩
      rw [hsame]
      rfl
    · obtain ⟨-, -, hk'⟩ | hread := hf
      · exact absurd hk hk'
      · exact absurd (hk ▸ hread) (by decide)

end Sys2Proof.Machine
end

section
/-! What every operation of the blocks leaves as it is, whatever it does: the clock, the desk ports, the tables and settings that only
the host writes, the inbound queue, and the notices that are already queued. -/

namespace Sys2Proof.Machine

variable {s t u : State}

/-- What no move without a tag changes: a command's own effects (its clock, its desk port, its keys, its writing) have tags. -/
structure State.Kept (s t : State) : Prop where
  clock : t.clock = s.clock
  epoch : t.epoch = s.epoch
  pending : t.pending = s.pending
  diu : t.diu = s.diu
  hks : t.hks = s.hks
  rules : t.rtf.rules = s.rtf.rules
  speed : t.ptu.speed = s.ptu.speed
  dwell : t.ptu.dwell = s.ptu.dwell
  guard : t.ptu.guard = s.ptu.guard
  layout : s.lco.SameWritten t.lco
  wakeTimeout : t.wpc.wakeTimeout = s.wpc.wakeTimeout
  sleepTimeout : t.wpc.sleepTimeout = s.wpc.sleepTimeout
  standbyHold : t.wpc.standbyHold = s.wpc.standbyHold
  inbound : t.clp.inbound = s.clp.inbound
  spi : t.clp.spi = s.clp.spi
  spiOut : t.clp.spiOut = s.clp.spiOut
  outbound : s.clp.outbound <+: t.clp.outbound

theorem State.Kept.refl (s : State) : s.Kept s where
  clock := rfl
  epoch := rfl
  pending := rfl
  diu := rfl
  hks := rfl
  rules := rfl
  speed := rfl
  dwell := rfl
  guard := rfl
  layout := .refl _
  wakeTimeout := rfl
  sleepTimeout := rfl
  standbyHold := rfl
  inbound := rfl
  spi := rfl
  spiOut := rfl
  outbound := List.prefix_refl _

theorem State.Kept.trans (h : s.Kept t) (k : t.Kept u) : s.Kept u where
  clock := k.clock.trans h.clock
  epoch := k.epoch.trans h.epoch
  pending := k.pending.trans h.pending
  diu := k.diu.trans h.diu
  hks := k.hks.trans h.hks
  rules := k.rules.trans h.rules
  speed := k.speed.trans h.speed
  dwell := k.dwell.trans h.dwell
  guard := k.guard.trans h.guard
  layout := h.layout.trans k.layout
  wakeTimeout := k.wakeTimeout.trans h.wakeTimeout
  sleepTimeout := k.sleepTimeout.trans h.sleepTimeout
  standbyHold := k.standbyHold.trans h.standbyHold
  inbound := k.inbound.trans h.inbound
  spi := k.spi.trans h.spi
  spiOut := k.spiOut.trans h.spiOut
  outbound := h.outbound.trans k.outbound

/-! ### Records that are not in the frame -/

theorem State.kept_setComp (s : State) (c : Comp) (r : Computer) : s.Kept (s.setComp c r) := { State.Kept.refl s with }

theorem State.kept_setFcu (s : State) (f : Fcu) : s.Kept (s.setFcu f) := { State.Kept.refl s with }

theorem State.kept_setPsc (s : State) (p : Psc) : s.Kept (s.setPsc p) := { State.Kept.refl s with }

theorem State.kept_setPtu (s : State) {p : Ptu} (hspeed : p.speed = s.ptu.speed) (hdwell : p.dwell = s.ptu.dwell)
    (hguard : p.guard = s.ptu.guard) : s.Kept (s.setPtu p) :=
  { State.Kept.refl s with speed := hspeed, dwell := hdwell, guard := hguard }

theorem State.kept_setLco (s : State) {l : Lco} (h : s.lco.SameWritten l) : s.Kept (s.setLco l) :=
  { State.Kept.refl s with layout := h }

theorem State.kept_setWpc (s : State) {w : Wpc} (hwake : w.wakeTimeout = s.wpc.wakeTimeout)
    (hsleep : w.sleepTimeout = s.wpc.sleepTimeout) (hhold : w.standbyHold = s.wpc.standbyHold) : s.Kept (s.setWpc w) :=
  { State.Kept.refl s with wakeTimeout := hwake, sleepTimeout := hsleep, standbyHold := hhold }

theorem Clp.queueNotice_outbound (c : Clp) (n : Notice) : c.outbound <+: (c.queueNotice n).outbound := by
  unfold Clp.queueNotice
  split
  · exact List.prefix_append _ _
  · exact List.prefix_refl _

theorem Clp.queueNotice_inbound (c : Clp) (n : Notice) : (c.queueNotice n).inbound = c.inbound := by
  unfold Clp.queueNotice
  split <;> rfl

theorem Clp.queueNotice_spi (c : Clp) (n : Notice) : (c.queueNotice n).spi = c.spi ∧ (c.queueNotice n).spiOut = c.spiOut := by
  unfold Clp.queueNotice
  split <;> exact ⟨rfl, rfl⟩

theorem State.kept_notify (s : State) (n : Notice) : s.Kept (s.notify n) :=
  { State.Kept.refl s with
    inbound := s.clp.queueNotice_inbound n
    spi := (s.clp.queueNotice_spi n).1
    spiOut := (s.clp.queueNotice_spi n).2
    outbound := s.clp.queueNotice_outbound n }

theorem State.kept_enterPort (s : State) (c : Comp) (new : PortState) : s.Kept (s.enterPort c new) := by
  rw [enterPort_eq]
  refine { State.Kept.refl s with rules := ?_ }
  dsimp only
  split <;> rfl

theorem State.kept_endAttempt (s : State) (c : Comp) (result : WakeEnd) : s.Kept (s.endAttempt c result) := by
  unfold State.endAttempt
  split
  · refine .trans ?_ (State.kept_notify _ _)
    exact s.kept_setWpc rfl rfl rfl
  · exact .refl s

theorem State.kept_portMove (s : State) (c : Comp) (new : PortState) : s.Kept (s.portMove c new) := by
  have htold := (s.kept_enterPort c new).trans
    (State.kept_notify (s.enterPort c new) (.portState c new (s.comp c).port ((s.enterPort c new).comp c).remoteWake))
  unfold State.portMove
  dsimp only
  split
  · exact htold.trans (State.kept_endAttempt _ _ _)
  · exact htold

theorem setScreen_sameWritten (l : Lco) (scr : ScreenId) {x : Screen} (hplaced : x.placed = l.screens[scr].placed)
    (hrect : x.rect = l.screens[scr].rect) (hon : x.alwaysOn = l.screens[scr].alwaysOn)
    (hback : x.background = l.screens[scr].background) : l.SameWritten (l.setScreen scr x) where
  heads := rfl
  borders := rfl
  presets := rfl
  lastPreset := rfl
  placed o := by rw [setScreen_get]; split <;> simp_all
  rect o := by rw [setScreen_get]; split <;> simp_all
  alwaysOn o := by rw [setScreen_get]; split <;> simp_all
  background o := by rw [setScreen_get]; split <;> simp_all

/-! ### Moves -/

theorem Move.kept (h : Move [] s t) : s.Kept t := by
  cases h with
  | notify n => exact s.kept_notify n
  | pointer p h => rw [h]; exact s.kept_setPtu rfl rfl rfl
  | warp c => obtain ⟨x, y, fx, fy, hw⟩ := s.warp_frame c; rw [hw]; exact s.kept_setPtu rfl rfl rfl
  | recentre => exact s.kept_setPtu rfl rfl rfl
  | report c p w => exact s.kept_setComp c _
  | system c code => exact s.kept_setComp c _
  | timedOut c => exact s.kept_setComp c _
  | held l => obtain ⟨cps, heq⟩ := s.setHeld_eq l; rw [heq]; exact { State.Kept.refl s with }
  | release f => obtain ⟨cps, heq⟩ := s.releaseKeys_eq f; rw [heq]; exact { State.Kept.refl s with }
  | port c new => exact s.kept_portMove c new
  | wake c a =>
    refine .trans ?_ (State.kept_portMove _ c .resuming)
    exact s.kept_setWpc rfl rfl rfl
  | layout l h => exact s.kept_setLco h.toSameWritten
  | pend scr start => exact s.kept_setLco (setScreen_sameWritten _ _ rfl rfl rfl rfl)
  | applied scr start => exact s.kept_setLco (setScreen_sameWritten _ _ rfl rfl rfl rfl)
  | power p => exact s.kept_setWpc rfl rfl rfl
  | deskSleep w h => exact s.kept_setWpc h.wakeTimeout h.sleepTimeout h.standbyHold
  | panels p => exact s.kept_setPsc p
  | unpark => exact s.kept_setFcu _
  | unpend => exact s.kept_setFcu _
  | dwell => exact s.kept_setFcu _
  | focus => exact s.kept_setFcu _
  | park => exact s.kept_setFcu _
  | soft => exact s.kept_setFcu _
  | unsoft => exact s.kept_setFcu _
  | unguard => exact s.kept_setFcu _
  | record _ _ h => exact absurd h (by simp)
  | _ => contradiction

theorem Moves.kept (h : Moves [] s t) : s.Kept t := by
  induction h with
  | refl => exact .refl s
  | tail _ hmove ih => exact ih.trans hmove.kept

end Sys2Proof.Machine
end

section
/-! The fields of the wire: what is written as bytes is read back (R186 and the request layouts), and the requests that write and
read whole records: hotkey entries, route rules, timings, computers and presets. -/

namespace Sys2Proof.Machine

variable {s : State} {tag : Byte} {rest : List Request}

/-! ### Fields -/

theorem index_byte {n : Nat} (hn : n ≤ 256) (i : Fin n) : index n (byte i.val) = some i := by
  have hi := byte_toNat i.val (by omega)
  simp only [index, hi, i.isLt, dite_true]

theorem index_of_ge {n : Nat} {b : Byte} (h : n ≤ b.toNat) : index n b = none := dif_neg (Nat.not_lt.mpr h)

theorem byte_ne_255 {n : Nat} (h : n < 255) : byte n ≠ 0xFF := by
  intro heq
  have := congrArg BitVec.toNat heq
  rw [byte_toNat n (by omega)] at this
  simp at this
  omega

theorem indexOrAbsent_byte {n : Nat} (hn : n < 256) (i : Fin n) : indexOrAbsent n (byte i.val) = some (some i) := by
  rw [indexOrAbsent, if_neg (byte_ne_255 (by omega)), index_byte (by omega)]
  rfl

theorem indexOrAbsent_none (n : Nat) : indexOrAbsent n 0xFF = some none := if_pos rfl

theorem indexOrAbsent_of_ge {n : Nat} {b : Byte} (h : n ≤ b.toNat) (hb : b ≠ 0xFF) : indexOrAbsent n b = none := by
  rw [indexOrAbsent, if_neg hb, index_of_ge h]
  rfl

@[simp] theorem flag_flagByte (b : Bool) : flag (flagByte b) = some b := by cases b <;> decide

@[simp] theorem condOf_code (c : Cond) : condOf c.code = some c := by cases c <;> decide

@[simp] theorem triggerOf_code (k : TriggerKind) : triggerOf k.code = some k := by cases k <;> decide

@[simp] theorem commandOf_code (c : Command) : commandOf c.code = some c := by cases c <;> decide

/-- A two-byte field holds any number below 65536. -/
theorem u16_bytes {n : Nat} (h : n < 65536) : u16 (byte n) (byte (n / 256)) = n := by
  simp only [u16, byte, BitVec.toNat_ofNat]
  omega

theorem u16_eq (lo hi : Byte) : u16 lo hi = lo.toNat + 256 * hi.toNat := rfl

theorem startOf_index (r : TileId) : startOf r.val = some (some r) := by
  rw [startOf, if_neg (by omega), dif_pos r.isLt]

theorem startOf_none : startOf 65535 = some none := if_pos rfl

theorem startOf_of_ge {n : Nat} (h : 256 ≤ n) (hn : n ≠ 65535) : startOf n = none := by
  rw [startOf, if_neg hn, dif_neg (by omega)]

theorem toFin_byte (r : TileId) : (byte r.val).toFin = r := Fin.ext (byte_toNat r.val r.isLt)

/-! ### Hotkey entries and route rules -/

theorem parseHotkey_fields {i : Fin 24} {e : HotkeyEntry} (husage : 4 ≤ e.usage)
    (hmodifier : ¬ (e.kind = .sequence ∧ isModifier e.usage = true)) (hargument : e.argument.toNat < e.command.arguments) :
    parseHotkey (e.bytes i) = .ok (i, e) := by
  have hi : index 24 (byte i.val) = some i := index_byte (by decide) i
  simp [parseHotkey, HotkeyEntry.bytes, ModCond.bytes, at8, modCondAt, hi, hmodifier, hargument]
  exact husage

theorem parseRule_fields {i : Fin 32} {r : RouteRule} (hrange : r.low ≤ r.high) : parseRule (r.bytes i) = .ok (i, r) := by
  have hi : index 32 (byte i.val) = some i := index_byte (by decide) i
  have hports : ¬ 0x0F#8 < r.ports.setWidth 8 := by bv_omega
  have hrange' : ¬ r.high < r.low := by bv_omega
  have hwidth : (r.ports.setWidth 8).setWidth 4 = r.ports := by
    simp
  simp [parseRule, RouteRule.bytes, ModCond.bytes, at8, modCondAt, hi, hports, hrange', hwidth]

theorem readEntryOf_hotkey (i : Fin 24) : s.readEntryOf 1 (byte i.val) = .okWith (s.hks.table[i].bytes i) := by
  simp [State.readEntryOf, entryReply, index_byte (by decide : 24 ≤ 256) i]

theorem readEntryOf_rule (i : Fin 32) : s.readEntryOf 0 (byte i.val) = .okWith (s.rtf.rules[i].bytes i) := by
  simp [State.readEntryOf, entryReply, index_byte (by decide : 32 ≤ 256) i]

theorem readEntryOf_preset (n : PresetId) : s.readEntryOf 2 (byte n.val) = .okWith (s.lco.presetBytes n) := by
  simp [State.readEntryOf, entryReply, index_byte (by decide : 16 ≤ 256) n]

theorem exec_readEntry {selector i : Byte} {data : List Byte} (hasks : s.Asks 0x1E tag [selector, i] rest) (t : Time)
    (hread : (s.at t).readEntryOf selector i = .okWith data) :
    exec (.readEntry t) s = .next ((s.at t).answered 0x1E tag rest (0 :: data)) := by
  have howner : requestReadEntry [selector, i] (s.at t) = (s.at t, .okWith data) := by
    rw [← hread]; rfl
  exact requestReadEntry_keeps.exec_asks hasks howner

/-- Settles O19, by the round trip of each entry's bytes. -/
theorem tablesReadBackAsWritten : Obligations.TablesReadBackAsWritten := by
  unfold Obligations.TablesReadBackAsWritten
  refine ⟨fun t s tag rest i e => ⟨fun husage hmodifier hargument hasks => ?_, fun hentry hasks => ?_⟩,
    fun t s tag rest i r => ⟨fun hrange hasks => ?_, fun hrule hasks => ?_⟩⟩
  · have howner : requestWriteHotkey (e.bytes i) (s.at t) =
        ((s.at t).setHks { s.hks with table := s.hks.table.set i e }, .bare .ok) := by
      simp only [requestWriteHotkey, parseHotkey_fields husage hmodifier hargument]
      rfl
    exact requestWriteHotkey_keeps.exec_asks hasks howner
  · exact exec_readEntry hasks t ((readEntryOf_hotkey i).trans (by rw [← hentry]; rfl))
  · have howner : requestWriteRule (r.bytes i) (s.at t) =
        ((s.at t).setRtf { s.rtf with rules := s.rtf.rules.set i r }, .bare .ok) := by
      simp only [requestWriteRule, parseRule_fields hrange]
      rfl
    exact requestWriteRule_keeps.exec_asks hasks howner
  · exact exec_readEntry hasks t ((readEntryOf_rule i).trans (by rw [← hrule]; rfl))

/-! ### Hotkey timing -/

theorem State.leaderNone_of_waiting (h : (∃ phase d, s.hks.seq = .firstTap phase d) ∨ ∃ d, s.hks.seq = .armed d) :
    s.leaderNone = s.releaseHold := by
  unfold State.leaderNone
  obtain ⟨phase, d, h⟩ | ⟨d, h⟩ := h <;> rw [h]

theorem State.leaderNone_of_other (h : s.hks.seq = .idle ∨ ∃ i c a, s.hks.seq = .chordHeld i c a) : s.leaderNone = s := by
  unfold State.leaderNone
  obtain h | ⟨i, c, a, h⟩ := h <;> rw [h]

theorem requestSetHotkeyTiming_refused {p : List Byte} (hlength : p.length = 5) (h : 1 ≤ at8 p 0 ∧ at8 p 0 ≤ 3) (s : State) :
    requestSetHotkeyTiming p s = (s, .bare .badValue) := by
  rw [requestSetHotkeyTiming, if_neg (not_not_intro hlength), if_pos h]

theorem requestSetHotkeyTiming_taken {p : List Byte} (hlength : p.length = 5) (h : ¬ (1 ≤ at8 p 0 ∧ at8 p 0 ≤ 3)) (s : State) :
    requestSetHotkeyTiming p s = (s.writeTiming p, .okWith (s.writeTiming p).hks.timingBytes) := by
  rw [requestSetHotkeyTiming, if_neg (not_not_intro hlength), if_neg h]

theorem State.releaseHold_eq (s : State) : s.releaseHold = s.hks.hold.foldl State.route (s.setHks s.hks.toIdle) := rfl

theorem State.releaseHold_hks (s : State) : s.releaseHold.hks = s.hks.toIdle :=
  (Moves.kept (moves_foldl State.route_moves s.hks.hold (s.setHks s.hks.toIdle))).hks

/-- Settles O20, by the sequencer's state. -/
theorem hotkeyTimingIsClamped : Obligations.HotkeyTimingIsClamped := by
  unfold Obligations.HotkeyTimingIsClamped
  intro t s tag rest leader t0 t1 c0 c1 hasks tap command hks reply
  have hwritten : (s.at t).writeTiming [leader, t0, t1, c0, c1] =
      if leader = 0 then ((s.at t).setHks hks).leaderNone else (s.at t).setHks hks := by
    simp only [hks, tap, command, ← u16_eq, ← clampNat_eq_max_min (by decide : 100 ≤ 1000),
      ← clampNat_eq_max_min (by decide : 500 ≤ 5000)]
    rfl
  have hreply {u : State} (h : u.hks.leader = hks.leader ∧ u.hks.tapWindow = tap ∧ u.hks.commandWindow = command) :
      0 :: u.hks.timingBytes = reply := by
    have hleader : hks.leader.getD 0 = leader := by
      simp only [hks]
      split <;> simp_all
    simp only [Hks.timingBytes, h, hleader]
    rfl
  have hexec {u : State} (hk : ¬ (1 ≤ leader ∧ leader ≤ 3)) (hu : (s.at t).writeTiming [leader, t0, t1, c0, c1] = u)
      (h : u.hks.leader = hks.leader ∧ u.hks.tapWindow = tap ∧ u.hks.commandWindow = command) :
      exec (.setHotkeyTiming t) s = .next (u.answered 0x05 tag rest reply) := by
    subst hu
    rw [← hreply h]
    exact requestSetHotkeyTiming_keeps.exec_asks hasks (requestSetHotkeyTiming_taken (p := [leader, t0, t1, c0, c1]) rfl hk (s.at t))
  refine ⟨fun hk => ?_, fun hk => ⟨fun hother => ?_, fun hleader hwaiting => ?_⟩⟩
  · exact requestSetHotkeyTiming_keeps.exec_asks hasks (requestSetHotkeyTiming_refused (p := [leader, t0, t1, c0, c1]) rfl hk (s.at t))
  · refine hexec hk (u := (s.at t).setHks hks) ?_ ⟨rfl, rfl, rfl⟩
    rw [hwritten]
    split
    · next hleader =>
      exact State.leaderNone_of_other (s := (s.at t).setHks hks) (hother.resolve_left (not_not_intro hleader))
    · rfl
  · refine hexec hk (u := ((s.at t).setHks hks).releaseHold) ?_ ?_
    · rw [hwritten, if_pos hleader]
      exact State.leaderNone_of_waiting (s := (s.at t).setHks hks) hwaiting
    · rw [State.releaseHold_hks]
      exact ⟨rfl, rfl, rfl⟩

/-! ### Computers -/

/-- R101: the five bits of the flags byte that must be 0. -/
theorem flags_in_range_iff (flags : Byte) : flags &&& 0xF8 = 0 ↔ flags < 8 := by
  revert flags
  decide

theorem requestSetComputer_fields (c : Comp) (w0 w1 h0 h1 flags : Byte) (s : State) :
    requestSetComputer [byte c.val, w0, w1, h0, h1, flags] s =
      if 1 ≤ u16 w0 w1 ∧ u16 w0 w1 ≤ 16384 ∧ 1 ≤ u16 h0 h1 ∧ u16 h0 h1 ≤ 16384 ∧ flags < 8 then
        (s.setComp c { s.comp c with
          dw := u16 w0 w1, dh := u16 h0 h1, wakeOnInput := flags.getLsbD 0, wakeOnFocus := flags.getLsbD 1,
          sleepsWithDesk := flags.getLsbD 2 }, .bare .ok)
      else (s, .bare .badValue) := by
  simp only [← flags_in_range_iff]
  have hc : index 8 (at8 [byte c.val, w0, w1, h0, h1, flags] 0) = some c := index_byte (by decide) c
  unfold requestSetComputer
  rw [if_neg (by simp), hc]
  rfl

theorem readIndexed_byte {n : Nat} (hn : n ≤ 256) (bytes : Fin n → List Byte) (i : Fin n) :
    readIndexed n bytes [byte i.val] = .okWith (bytes i) := by
  have hi : index n (at8 [byte i.val] 0) = some i := index_byte hn i
  rw [readIndexed, if_neg (by simp), hi]

theorem flags_eq (r : Computer) : r.flags =
    (if r.wakeOnInput then 1 else 0) ||| (if r.wakeOnFocus then 2 else 0) ||| (if r.sleepsWithDesk then 4 else 0) := by
  unfold Computer.flags
  cases r.wakeOnInput <;> cases r.wakeOnFocus <;> cases r.sleepsWithDesk <;> rfl

theorem owed_eq (r : Computer) : r.owed = (if r.owedKeyboard then 1 else 0) ||| (if r.owedPointer then 2 else 0) := by
  unfold Computer.owed
  cases r.owedKeyboard <;> cases r.owedPointer <;> rfl

/-- Settles O40, field by field. -/
theorem computersAreWrittenAndRead : Obligations.ComputersAreWrittenAndRead := by
  unfold Obligations.ComputersAreWrittenAndRead
  intro t s tag rest c r
  refine ⟨fun w0 w1 h0 h1 flags hasks => ?_, fun hasks => ?_⟩
  · intro dw dh good
    have howner := requestSetComputer_fields c w0 w1 h0 h1 flags (s.at t)
    refine ⟨fun hgood => ?_, fun hbad => ?_⟩
    · exact requestSetComputer_keeps.exec_asks hasks (howner.trans (if_pos hgood))
    · exact requestSetComputer_keeps.exec_asks hasks (howner.trans (if_neg hbad))
  · intro bit last port
    have howner : requestReadComputer [byte c.val] (s.at t) = (s.at t, .okWith ((s.at t).computerBytes c)) :=
      congrArg _ (readIndexed_byte (by decide) _ c)
    have hlast : pointerStateBytes r.lastPointer = last := by
      unfold pointerStateBytes
      cases h : r.lastPointer <;> simp only [last, h] <;> rfl
    have hport : r.port.code = port := by
      unfold PortState.code
      cases h : r.port <;> simp only [port, h]
    refine requestReadComputer_keeps.exec_asks hasks howner (hdata := ?_)
    change 0 :: (s.at t).computerBytes c = _
    rw [State.computerBytes, show (s.at t).comp c = r from rfl, flags_eq, owed_eq, hlast, hport]
    simp only [le16, List.cons_append, List.nil_append]
    rfl

/-! ### Presets -/

theorem presetEntryOf_bytes (e : PresetEntry) : ∃ lo hi, e.bytes = [lo, hi] ∧ presetEntryOf (u16 lo hi) = some e := by
  rcases e with _ | (_ | r)
  · exact ⟨0xFE, 0xFF, rfl, rfl⟩
  · exact ⟨0xFF, 0xFF, rfl, rfl⟩
  · refine ⟨byte r.val, byte (r.val / 256), rfl, ?_⟩
    rw [u16_bytes (by omega), presetEntryOf, if_neg (by omega), startOf_index]
    rfl

theorem indexOrAbsent_compByte (c : Option Comp) : indexOrAbsent 8 (compByte c) = some c := by
  cases c with
  | none => exact indexOrAbsent_none 8
  | some c => exact indexOrAbsent_byte (by decide) c

theorem indexOrAbsent_presetByte (n : Option PresetId) : indexOrAbsent 16 (presetByte n) = some n := by
  cases n with
  | none => exact indexOrAbsent_none 16
  | some n => exact indexOrAbsent_byte (by decide) n

theorem vector8_toList {α : Type} (v : Vector α 8) :
    v.toList = [v[0], v[1], v[2], v[3], v[4], v[5], v[6], v[7]] ∧ #v[v[0], v[1], v[2], v[3], v[4], v[5], v[6], v[7]] = v := by
  refine ⟨List.ext_getElem (by simp) fun i h _ => ?_, Vector.ext fun i h => ?_⟩
  · simp at h
    interval_cases i <;> simp
  · interval_cases i <;> rfl

theorem parsePreset_written (n : PresetId) (p : Preset) : parsePreset (byte n.val :: p.bytes) = .ok (n, some p) := by
  obtain ⟨hlist, hvector⟩ := vector8_toList p.screens
  have hn : index 16 (byte n.val) = some n := index_byte (by decide) n
  have hc := indexOrAbsent_compByte p.focus
  have hm := indexOrAbsent_presetByte p.next
  obtain ⟨a0, b0, h0, e0⟩ := presetEntryOf_bytes p.screens[0]
  obtain ⟨a1, b1, h1, e1⟩ := presetEntryOf_bytes p.screens[1]
  obtain ⟨a2, b2, h2, e2⟩ := presetEntryOf_bytes p.screens[2]
  obtain ⟨a3, b3, h3, e3⟩ := presetEntryOf_bytes p.screens[3]
  obtain ⟨a4, b4, h4, e4⟩ := presetEntryOf_bytes p.screens[4]
  obtain ⟨a5, b5, h5, e5⟩ := presetEntryOf_bytes p.screens[5]
  obtain ⟨a6, b6, h6, e6⟩ := presetEntryOf_bytes p.screens[6]
  obtain ⟨a7, b7, h7, e7⟩ := presetEntryOf_bytes p.screens[7]
  rw [Preset.bytes, hlist]
  simp [h0, h1, h2, h3, h4, h5, h6, h7, parsePreset, at8, at16, hn, e0, e1, e2, e3, e4, e5, e6, e7, hc, hm, hvector]

theorem parsePreset_emptied (n : PresetId) : parsePreset [byte n.val] = .ok (n, none) := by
  have hn : index 16 (byte n.val) = some n := index_byte (by decide) n
  simp [parsePreset, at8, hn]

/-- Settles O48, by the round trip of a preset's bytes. -/
theorem presetsReadBackAsWritten : Obligations.PresetsReadBackAsWritten := by
  unfold Obligations.PresetsReadBackAsWritten
  intro t s tag rest n fields
  have hfields (p : Preset) : fields p = p.bytes := by
    refine congrArg₂ (· ++ ·) (congrArg (p.screens.toList.flatMap ·) (funext fun e => ?_)) ?_
    · rcases e with _ | (_ | r)
      · rfl
      · rfl
      · exact (startField_some r).symm
    · cases p.focus <;> cases p.next <;> rfl
  refine ⟨fun p hasks => ?_, fun hasks => ?_, fun hasks => ⟨fun hnone => ?_, fun p hp => ?_⟩⟩
  · rw [hfields] at hasks
    refine requestWritePreset_keeps.exec_asks hasks
      (u := (s.at t).setLco { s.lco with presets := s.lco.presets.set n (some p) }) (rep := .bare .ok) ?_
    simp only [requestWritePreset, parsePreset_written]
    rfl
  · refine requestWritePreset_keeps.exec_asks hasks
      (u := (s.at t).setLco { s.lco with presets := s.lco.presets.set n none }) (rep := .bare .ok) ?_
    simp only [requestWritePreset, parsePreset_emptied]
    rfl
  · refine exec_readEntry hasks t ((readEntryOf_preset n).trans ?_)
    rw [Lco.presetBytes, show (s.at t).lco = s.lco from rfl, hnone]
  · rw [hfields]
    refine exec_readEntry hasks t ((readEntryOf_preset n).trans ?_)
    rw [Lco.presetBytes, show (s.at t).lco = s.lco from rfl, hp]
    rfl

end Sys2Proof.Machine
end

section
/-! Tile records (R127 to R129, R186): what WRITE TILE's bytes say is what READ TILE gives back, and what a chain keeps from being
written or freed. -/

namespace Sys2Proof.Machine

variable {s : State} {tag : Byte} {rest : List Request}

/-- R186: a record's fields in the layout of WRITE TILE, from the kind byte on. -/
def Tile.payload (t : Tile) : List Byte :=
  match t.kind with
  | .single p a showing _ v b =>
    0 :: startField t.next ++ t.rect.bytes ++ [byte p.val, headByte a, showing.code] ++ v.bytes ++ [byte b]
  | .grid c r cells b => 1 :: startField t.next ++ t.rect.bytes ++ [byte c, byte r, byte b] ++ cells.map headByte
  | .fill colour => 2 :: startField t.next ++ t.rect.bytes ++ colour.bytes

theorem Tile.bytes_eq (t : Tile) : t.bytes = t.payload ++ [flagByte t.flipWaits] := by
  unfold Tile.bytes Tile.payload Tile.flipWaits
  cases t.kind <;> simp [flagByte]

theorem startField_bytes (start : Option TileId) : ∃ lo hi, startField start = [lo, hi] ∧ startOf (u16 lo hi) = some start := by
  rcases start with _ | r
  · exact ⟨0xFF, 0xFF, rfl, rfl⟩
  · exact ⟨byte r.val, byte (r.val / 256), rfl, by rw [u16_bytes (by omega)]; exact startOf_index r⟩

theorem indexOrAbsent_headByte (h : Option HeadId) : indexOrAbsent 16 (headByte h) = some h := by
  cases h with
  | none => exact indexOrAbsent_none 16
  | some h => exact indexOrAbsent_byte (by decide) h

theorem mapM_headByte (cells : List (Option HeadId)) : (cells.map headByte).mapM (indexOrAbsent 16) = some cells := by
  induction cells with
  | nil => rfl
  | cons cell cells ih => simp [ih, indexOrAbsent_headByte]

/-- The four fields of a rectangle, each below 65536, are read back. -/
theorem rect_fields {r : Rect} (hx : r.x < 65536) (hy : r.y < 65536) (hw : r.w < 65536) (hh : r.h < 65536) :
    ({ x := u16 (byte r.x) (byte (r.x / 256)), y := u16 (byte r.y) (byte (r.y / 256)),
       w := u16 (byte r.w) (byte (r.w / 256)), h := u16 (byte r.h) (byte (r.h / 256)) } : Rect) = r := by
  rw [u16_bytes hx, u16_bytes hy, u16_bytes hw, u16_bytes hh]

theorem writable_iff (r : Rect) : r.writable = true ↔ 1 ≤ r.w ∧ 1 ≤ r.h ∧ r.x + r.w ≤ 2560 ∧ r.y + r.h ≤ 1600 := by
  simp only [Rect.writable, Bool.and_eq_true, decide_eq_true_eq, and_assoc]

theorem showingOf_code {alternate : Option HeadId} {showing : Showing} (h : showing = .alternate → alternate ≠ none) :
    showingOf alternate showing.code = some showing := by
  cases showing with
  | primary => rfl
  | alternate =>
    rw [showingOf, if_neg (by decide), if_pos ⟨rfl, Option.isSome_iff_ne_none.mpr (h rfl)⟩]

theorem borderOf_byte {b : Nat} (h : b ≤ 8) : borderOf (byte b) = some b := by
  rw [borderOf, byte_toNat b (by omega), if_pos h]

/-- R128: a lawful record's payload passes the checks and gives the record. -/
theorem parseTile_payload {tile : Tile} (r : TileId) (hlawful : tile.Lawful) (hflip : tile.flipWaits = false)
    (hshowing : ∀ p f v b, tile.kind ≠ .single p none .alternate f v b) :
    parseTile (byte r.val :: tile.payload) = .ok (r, tile) := by
  obtain ⟨hwritable, hkind⟩ := hlawful
  obtain ⟨hw, hh, hx, hy⟩ := (writable_iff _).mp hwritable
  obtain ⟨n0, n1, hnext, hstart⟩ := startField_bytes tile.next
  have hrect := rect_fields (r := tile.rect) (by omega) (by omega) (by omega) (by omega)
  obtain ⟨next, rect, kind⟩ := tile
  dsimp only at *
  cases kind with
  | single p a showing flip v b =>
    have hflip' : flip = false := hflip
    have ha := indexOrAbsent_headByte a
    have hp : index 16 (byte p.val) = some p := index_byte (by decide) p
    have hs : showingOf a showing.code = some showing := showingOf_code fun halt hnone => by
      subst halt hnone; exact hshowing _ _ _ _ rfl
    cases v with
    | whole =>
      have hb : borderOf (byte b) = some b := borderOf_byte hkind
      simp [parseTile, Tile.payload, tileLength, at8, at16, hnext, hstart, rectAt, Rect.bytes, le16, hrect, hwritable,
        parseTileKind, parseSingle, viewOf, View.bytes, toFin_byte, ha, hp, hs, hb, hflip']
    | crop c =>
      obtain ⟨hborder, hcw, hch, hcx, hcy⟩ := hkind
      have hb : borderOf (byte b) = some b := borderOf_byte hborder
      have hcrop := rect_fields (r := c) (by omega) (by omega) (by omega) (by omega)
      simp [parseTile, Tile.payload, tileLength, at8, at16, hnext, hstart, rectAt, Rect.bytes, le16, hrect, hwritable,
        parseTileKind, parseSingle, viewOf, View.bytes, toFin_byte, ha, hp, hs, hb, hflip', hcrop, hcw, hch, hcx, hcy]
  | grid c r' cells b =>
    obtain ⟨hborder, hc, hc4, hr, hr4, hcw, hrh, hlength⟩ := hkind
    have hb : borderOf (byte b) = some b := borderOf_byte hborder
    have hcol := byte_toNat c (by omega)
    have hrow := byte_toNat r' (by omega)
    have hcells := mapM_headByte cells
    simp [parseTile, Tile.payload, tileLength, at8, at16, hnext, hstart, rectAt, Rect.bytes, le16, hrect, hwritable,
      parseTileKind, parseGrid, toFin_byte, hb, hcol, hrow, hcells, hc, hc4, hr, hr4, hcw, hrh, hlength]
    omega
  | fill colour =>
    simp [parseTile, Tile.payload, tileLength, at8, at16, hnext, hstart, rectAt, Rect.bytes, le16, hrect, hwritable, parseTileKind,
      colourAt, Colour.bytes, toFin_byte]

/-! ### What a chain holds -/

theorem inAnyChain_eq_false {l : Lco} {r : TileId} (h : ∀ scr : ScreenId, l.inChains scr r = false) : l.inAnyChain r = false := by
  simp only [Lco.inAnyChain, List.any_eq_false]
  exact fun scr _ => by simp [h scr]

theorem inAnyChain_eq_true {l : Lco} {r : TileId} (h : ∃ scr : ScreenId, l.inChains scr r = true) : l.inAnyChain r = true := by
  obtain ⟨scr, h⟩ := h
  exact List.any_eq_true.mpr ⟨scr, List.mem_finRange scr, h⟩

/-- R129: the membership bytes of READ TILE for a record in a screen's chains. -/
theorem membership_of_some {l : Lco} {r : TileId} {scr : ScreenId}
    (h : allScreens.find? (fun scr => l.inChains scr r) = some scr) :
    l.membership r = [byte scr.val, (if r ∈ l.activeChain scr then 1 else 0) ||| (if r ∈ l.pendingChain scr then 2 else 0)] := by
  rw [Lco.membership, h]
  by_cases ha : r ∈ l.activeChain scr <;> by_cases hp : r ∈ l.pendingChain scr <;> simp [ha, hp, flagByte]

theorem membership_of_none {l : Lco} {r : TileId} (h : allScreens.find? (fun scr => l.inChains scr r) = none) :
    l.membership r = [0xFF, 0] := by
  rw [Lco.membership, h]

/-- Settles O44, by the round trip of each kind's payload. -/
theorem tilesAreWrittenReadAndFreed : Obligations.TilesAreWrittenReadAndFreed := by
  unfold Obligations.TilesAreWrittenReadAndFreed
  intro t s tag rest r le head common fields writable member
  have hcommon (tile : Tile) : common tile = startField tile.next ++ tile.rect.bytes := by
    obtain ⟨_ | q, rect, kind⟩ := tile
    · rfl
    · rw [startField_some]
      rfl
  have hhead : head = headByte := funext fun h => by cases h <;> rfl
  have hfields (tile : Tile) : fields tile = tile.payload := by
    have hc := hcommon tile
    obtain ⟨next, rect, kind⟩ := tile
    cases kind with
    | single p a showing flip view border =>
      simp only [fields, hhead, hc, Tile.payload]
      cases view <;> cases showing <;> rfl
    | grid columns rows cells border => simp only [fields, hhead, hc, Tile.payload]; rfl
    | fill colour => simp only [fields, hc, Tile.payload]; rfl
  have hmember : s.lco.membership r = member := by
    cases h : allScreens.find? (fun scr => s.lco.inChains scr r) with
    | none => rw [membership_of_none h]; simp only [member, h]
    | some scr => rw [membership_of_some h]; simp only [member, h]
  refine ⟨fun tile ⟨hlawful, hflip, hshowing⟩ hasks => ?_, fun hasks => ?_, fun hasks => ⟨fun hfree => ?_, fun tile htile => ?_⟩⟩
  · rw [hfields] at hasks
    have hparse := parseTile_payload r hlawful hflip hshowing
    refine ⟨fun hout => requestWriteTile_keeps.exec_asks hasks
        (u := (s.at t).setLco (s.lco.setTile r (some tile))) (rep := .bare .ok) ?_,
      fun hin => requestWriteTile_keeps.exec_asks hasks (u := s.at t) (rep := .bare .inUse) ?_⟩
    · simp only [requestWriteTile, hparse, State.at_lco, inAnyChain_eq_false hout, Bool.false_eq_true, if_false]
    · simp only [requestWriteTile, hparse, State.at_lco, inAnyChain_eq_true hin, if_true]
  · have hr : (at8 [byte r.val] 0).toFin = r := toFin_byte r
    refine ⟨fun hout => requestFreeTile_keeps.exec_asks hasks
        (u := (s.at t).setLco (s.lco.setTile r none)) (rep := .bare .ok) ?_,
      fun hin => requestFreeTile_keeps.exec_asks hasks (u := s.at t) (rep := .bare .inUse) ?_⟩
    · simp [requestFreeTile, hr, inAnyChain_eq_false hout]
    · simp [requestFreeTile, hr, inAnyChain_eq_true hin]
  all_goals
    have howner : requestReadTile [byte r.val] (s.at t) = (s.at t, .okWith (s.lco.tileBytes r)) :=
      congrArg _ (readIndexed_byte (by decide) _ r)
    refine requestReadTile_keeps.exec_asks hasks howner (hdata := ?_)
  · change 0 :: s.lco.tileBytes r = _
    rw [Lco.tileBytes, hfree, hmember]
    rfl
  · change 0 :: s.lco.tileBytes r = _
    rw [Lco.tileBytes, htile, hmember, hfields]
    simp only [Tile.bytes_eq, List.append_assoc, List.cons_append, List.nil_append]
    rfl

end Sys2Proof.Machine
end

section
/-! Heads and screens (R97, R121 to R126): signals, SET HEAD, PLACE SCREEN and the records read back. -/

namespace Sys2Proof.Machine

variable {s : State} {tag : Byte} {rest : List Request}

theorem mem_allScreens (scr : ScreenId) : scr ∈ allScreens := by revert scr; decide

theorem mem_allComps (c : Comp) : c ∈ allComps := by revert c; decide

/-! ### Signals -/

theorem State.reportSignal_same {h : HeadId} {size : Option (Nat × Nat)} (heq : s.lco.heads[h].size = size) :
    s.reportSignal h size = s := if_pos heq

theorem State.reportSignal_differs {h : HeadId} {size : Option (Nat × Nat)} (hne : s.lco.heads[h].size ≠ size) :
    s.reportSignal h size =
      let told := (s.setLco { s.lco with heads := s.lco.heads.set h { s.lco.heads[h] with size := size } }).notify
        (.sourceChange h size)
      if s.lco.heads[h].size.isSome = size.isSome then told else told.reevaluateScreens State.reevaluate := if_neg hne

/-- Settles O41, by what the head's size was. -/
theorem signalEventsWriteTheHead : Obligations.SignalEventsWriteTheHead := by
  unfold Obligations.SignalEventsWriteTheHead
  intro t h s head reported
  have hreport (size : Option (Nat × Nat)) : (s.at t).reportSignal h size = reported size := by
    simp only [reported]
    split
    · next heq => exact State.reportSignal_same heq
    · next hne => exact State.reportSignal_differs (s := s.at t) hne
  have hmode (width height : Nat) : exec (.signalAcquired t h width height) s = .next (reported (modeSize width height)) ∧
      exec (.modeChanged t h width height) s = .next (reported (modeSize width height)) := by
    rw [← hreport]
    exact ⟨rfl, rfl⟩
  exact ⟨congrArg Host.Outcome.next (hreport none), fun width height => hmode width height⟩

/-! ### SET HEAD -/

theorem Lco.headsOwned_eq (l : Lco) (c : Comp) (h : HeadId) :
    l.headsOwned c h = (List.finRange 16).countP (fun g => decide (g ≠ h) && decide (l.heads[g].owner = some c)) :=
  List.countP_eq_length_filter.symm

theorem requestSetHead_fields (h : HeadId) (ob x0 x1 y0 y1 : Byte) (s : State) :
    requestSetHead [byte h.val, ob, x0, x1, y0, y1] s =
      match indexOrAbsent 8 ob with
      | none => (s, .bare .badValue)
      | some owner =>
        if u16 x0 x1 ≤ 16383 ∧ u16 y0 y1 ≤ 16383 then
          if s.lco.mayOwn h owner then (s.writeHead h owner (u16 x0 x1) (u16 y0 y1), .bare .ok) else (s, .bare .inUse)
        else (s, .bare .badValue) := by
  have hh : index 16 (at8 [byte h.val, ob, x0, x1, y0, y1] 0) = some h := index_byte (by decide) h
  unfold requestSetHead
  rw [if_neg (by simp), hh]
  rfl

theorem State.writeHead_same {h : HeadId} {owner : Option Comp} (heq : s.lco.heads[h].owner = owner) (dx dy : Nat) :
    s.writeHead h owner dx dy =
      s.setLco { s.lco with heads := s.lco.heads.set h { s.lco.heads[h] with owner := owner, dx := dx, dy := dy } } :=
  if_pos heq

theorem State.writeHead_differs {h : HeadId} {owner : Option Comp} (hne : s.lco.heads[h].owner ≠ owner) (dx dy : Nat) :
    s.writeHead h owner dx dy = State.reevaluateScreens State.reevaluate (State.reevaluate (s.setLco
      { s.lco with heads := s.lco.heads.set h { s.lco.heads[h] with owner := owner, dx := dx, dy := dy } })) := if_neg hne

/-- Settles O42, by the owner byte and the checks in their order. -/
theorem headsAreWrittenAndRead : Obligations.HeadsAreWrittenAndRead := by
  unfold Obligations.HeadsAreWrittenAndRead
  intro t s tag rest h old u
  refine ⟨fun ob x0 x1 y0 y1 hasks => ?write, fun hasks => ?read⟩
  case write =>
    intro dx dy
    have howner := requestSetHead_fields h ob x0 x1 y0 y1 u
    refine ⟨fun owner hob hdx hdy => ?_, fun hbad => ?_⟩
    · intro others written
      have hparse : indexOrAbsent 8 ob = some owner := by
        rw [hob]
        cases owner with
        | none => exact indexOrAbsent_none 8
        | some c => exact indexOrAbsent_byte (by decide) c
      rw [hparse] at howner
      replace howner := howner.trans (if_pos ⟨hdx, hdy⟩)
      have hmay (hfew : owner = none ∨ others < 4) : u.lco.mayOwn h owner = true := by
        cases owner with
        | none => rfl
        | some c =>
          refine decide_eq_true ?_
          rw [Lco.headsOwned_eq]
          exact hfew.resolve_left nofun
      refine ⟨fun hsome hmany => ?_, fun hfew hsame => ?_, fun hfew hchange => ?_⟩
      · have hnot : u.lco.mayOwn h owner = false := by
          cases owner with
          | none => exact absurd rfl hsome
          | some c =>
            refine decide_eq_false ?_
            rw [Lco.headsOwned_eq]
            exact Nat.not_lt.mpr hmany
        exact requestSetHead_keeps.exec_asks hasks (howner.trans (if_neg (by rw [hnot]; nofun)))
      · rw [if_pos (hmay hfew), State.writeHead_same (s := u) hsame] at howner
        exact requestSetHead_keeps.exec_asks hasks howner
      · rw [if_pos (hmay hfew), State.writeHead_differs (s := u) hchange] at howner
        exact requestSetHead_keeps.exec_asks hasks howner
    · cases hparse : indexOrAbsent 8 ob with
      | none =>
        rw [hparse] at howner
        exact requestSetHead_keeps.exec_asks hasks howner
      | some owner =>
        rw [hparse] at howner
        refine requestSetHead_keeps.exec_asks hasks (howner.trans (if_neg fun hin => ?_))
        obtain ⟨hlow, hnone⟩ | hx | hy := hbad
        · rw [indexOrAbsent_of_ge (n := 8) hlow hnone] at hparse
          exact nomatch hparse
        · exact absurd hin.1 (Nat.not_le.mpr hx)
        · exact absurd hin.2 (Nat.not_le.mpr hy)
  case read =>
    intro owner signal
    have howner : requestReadHead [byte h.val] u = (u, .okWith (u.lco.headBytes h)) :=
      congrArg _ (readIndexed_byte (by decide) _ h)
    refine requestReadHead_keeps.exec_asks hasks howner (hdata := ?_)
    change 0 :: u.lco.headBytes h = _
    have hsignal : flagByte old.size.isSome :: le16 old.measured.1 ++ le16 old.measured.2 = signal := by
      unfold Head.measured
      cases hsize : old.size <;> simp only [signal, hsize] <;> rfl
    have hcomp : compByte old.owner = owner := by
      cases howner : old.owner <;> simp only [owner, howner] <;> rfl
    have hbytes : u.lco.headBytes h = [byte h.val, compByte old.owner] ++ le16 old.dx ++ le16 old.dy ++
      (flagByte old.size.isSome :: le16 old.measured.1 ++ le16 old.measured.2) := by
      simp only [Lco.headBytes, List.append_assoc, List.cons_append]
      rfl
    rw [hbytes, hsignal, hcomp]
    rfl

/-! ### PLACE SCREEN -/

/-- The first index in ascending order that passes a test. -/
theorem find?_finRange_eq {n : Nat} {p : Fin n → Bool} {i : Fin n} (hi : p i = true) (hbefore : ∀ j < i, p j = false) :
    (List.finRange n).find? p = some i := by
  rw [List.find?_eq_some_iff_getElem]
  refine ⟨hi, i.val, by simp, by simp, fun j hj => ?_⟩
  simp [hbefore ⟨j, by omega⟩ hj]

theorem lowestPlaced_eq {l : Lco} {scr : ScreenId} (h : l.screens[scr].placed = true)
    (hbefore : ∀ o : ScreenId, o < scr → l.screens[o].placed = false) : l.lowestPlaced = scr := by
  have hfind : allScreens.find? (fun scr => l.screens[scr].placed) = some scr := find?_finRange_eq h hbefore
  rw [Lco.lowestPlaced, hfind]
  rfl

theorem State.recentre_eq {scr : ScreenId} (h : s.lco.lowestPlaced = scr) :
    s.recentre = s.setPtu { s.ptu with
      px := s.lco.screens[scr].rect.centre.1, py := s.lco.screens[scr].rect.centre.2, fx := 0, fy := 0 } := by
  subst h
  rfl

theorem screenAt_isSome_iff (s : State) : (s.lco.screenAt s.ptu.px s.ptu.py).isSome = true ↔ s.PointerLaw := by
  rw [Option.isSome_iff_exists]
  refine ⟨fun ⟨o, ho⟩ => holds_of_screenAt ho, fun ⟨scr, hplaced, hin⟩ => screenAt_of hplaced ?_⟩
  rw [contains_cast]
  exact hin

/-- R97: a pointer that still lies in a placed screen stays where it is. -/
theorem State.keepPlaced_of_law (h : s.PointerLaw) : s.keepPlaced = s.reevaluate := by
  rw [State.keepPlaced, State.keepPointer, if_pos ((screenAt_isSome_iff s).mpr h)]

theorem State.keepPlaced_of_lost (h : ¬ s.PointerLaw) : s.keepPlaced = s.recentre.reevaluate := by
  rw [State.keepPlaced, State.keepPointer, if_neg (mt (screenAt_isSome_iff s).mp h)]

theorem Lco.otherPlaced_iff (l : Lco) (scr : ScreenId) :
    l.otherPlaced scr = true ↔ ∃ o : ScreenId, o ≠ scr ∧ l.screens[o].placed = true := by
  simp [Lco.otherPlaced, mem_allScreens]

theorem Screen.hasChain_eq_false_iff (x : Screen) :
    x.hasChain = false ↔ x.active = none ∧ (x.pending = none ∨ x.pending = some none) := by
  obtain ⟨_, _, _, _, _ | _, _ | (_ | _), _⟩ := x <;> simp [Screen.hasChain]

theorem Lco.tilesFit_iff (l : Lco) (scr : ScreenId) (w h : Nat) :
    l.tilesFit scr w h = true ↔
      ∀ q ∈ l.activeChain scr ++ l.pendingChain scr, ∀ tile, l.tiles[q] = some tile → tile.rect.within w h = true := by
  rw [Lco.tilesFit, List.all_eq_true]
  refine forall₂_congr fun q _ => ?_
  cases l.tiles[q] <;> simp

theorem Lco.overlapsOther_eq_false_iff (l : Lco) (scr : ScreenId) (r : Rect) :
    l.overlapsOther scr r = false ↔
      ∀ o : ScreenId, o ≠ scr → l.screens[o].placed = true → r.overlaps l.screens[o].rect = false := by
  rw [Lco.overlapsOther, List.any_eq_false]
  simp only [mem_allScreens, true_imp_iff, Bool.and_eq_true, decide_eq_true_eq, not_and, Bool.not_eq_true]
  exact ⟨fun h o hne hplaced => h o ⟨hne, hplaced⟩, fun h o hother => h o hother.1 hother.2⟩

/-- R125: the placement fields of a payload, and the range check. -/
theorem parsePlacement_fields (scr : ScreenId) (placed always : Bool) {r : Rect} (red green blue : Byte) (hx : r.x < 65536)
    (hy : r.y < 65536) (hw : r.w < 65536) (hh : r.h < 65536) [Decidable r.Placeable] :
    parsePlacement [byte scr.val, flagByte placed, byte r.x, byte (r.x / 256), byte r.y, byte (r.y / 256), byte r.w,
      byte (r.w / 256), byte r.h, byte (r.h / 256), flagByte always, red, green, blue] =
    if r.Placeable then .ok (scr, Placement.mk placed r always { red := red, green := green, blue := blue })
    else .error .badValue := by
  have hscr : index 8 (byte scr.val) = some scr := index_byte (by decide) scr
  have hrect := rect_fields hx hy hw hh
  simp [parsePlacement, at8, at16, hscr, rectAt, hrect, colourAt]
  exact if_congr Iff.rfl rfl rfl

theorem requestPlaceScreen_of_parse {p : List Byte} {scr : ScreenId} {placement : Placement}
    (h : parsePlacement p = .ok (scr, placement)) (s : State) :
    requestPlaceScreen p s = match s.lco.placementRefusal scr placement with
      | some status => (s.keepPlaced, .bare status)
      | none => (s.placeScreen scr placement, .bare .ok) := by
  simp only [requestPlaceScreen, h] <;> rfl

/-- R125: the checks that read the screen records, each as the rule words it. -/
theorem placementRefusal_cases (l : Lco) (scr : ScreenId) (p : Placement) :
    let onePlaced := p.placed = true ∨ ∃ o : ScreenId, o ≠ scr ∧ l.screens[o].placed = true
    let unchained := p.placed = true ∨
      (l.screens[scr].active = none ∧ (l.screens[scr].pending = none ∨ l.screens[scr].pending = some none))
    let fits := ∀ q ∈ l.activeChain scr ++ l.pendingChain scr, ∀ tile, l.tiles[q] = some tile →
      tile.rect.within p.rect.w p.rect.h = true
    let apart := p.placed = true → ∀ o : ScreenId, o ≠ scr → l.screens[o].placed = true →
      p.rect.overlaps l.screens[o].rect = false
    (¬ onePlaced → l.placementRefusal scr p = some .wrongState) ∧
    (onePlaced → ¬ unchained → l.placementRefusal scr p = some .inUse) ∧
    (onePlaced → unchained → ¬ fits → l.placementRefusal scr p = some .inUse) ∧
    (onePlaced → unchained → fits → ¬ apart → l.placementRefusal scr p = some .overlap) ∧
    (onePlaced → unchained → fits → apart → l.placementRefusal scr p = none) := by
  intro onePlaced unchained fits apart
  have hone : (!p.placed && !l.otherPlaced scr) = true ↔ ¬ onePlaced := by
    simp only [onePlaced, ← Lco.otherPlaced_iff]
    cases p.placed <;> simp
  have hchain : (!p.placed && l.screens[scr].hasChain) = true ↔ ¬ unchained := by
    simp only [unchained, ← Screen.hasChain_eq_false_iff]
    cases p.placed <;> simp
  have hfits : (!l.tilesFit scr p.rect.w p.rect.h) = true ↔ ¬ fits := by
    rw [Bool.not_eq_true', ← Bool.not_eq_true, not_iff_not]
    exact Lco.tilesFit_iff l scr _ _
  have hapart : (p.placed && l.overlapsOther scr p.rect) = true ↔ ¬ apart := by
    simp only [apart, ← Lco.overlapsOther_eq_false_iff]
    cases p.placed <;> simp
  simp only [Lco.placementRefusal, hone, hchain, hfits, hapart]
  refine ⟨fun h => if_pos h, fun h0 h1 => ?_, fun h0 h1 h2 => ?_, fun h0 h1 h2 h3 => ?_, fun h0 h1 h2 h3 => ?_⟩
  · rw [if_neg (not_not_intro h0), if_pos h1]
  · rw [if_neg (not_not_intro h0), if_neg (not_not_intro h1), if_pos h2]
  · rw [if_neg (not_not_intro h0), if_neg (not_not_intro h1), if_neg (not_not_intro h2), if_pos h3]
  · rw [if_neg (not_not_intro h0), if_neg (not_not_intro h1), if_neg (not_not_intro h2), if_neg (not_not_intro h3)]

/-- Settles O43, by the checks in their order. -/
theorem screensArePlacedAndRead : Obligations.ScreensArePlacedAndRead := by
  classical
  unfold Obligations.ScreensArePlacedAndRead
  refine ⟨fun t s tag rest scr placed always r red green blue hasks hx hy hw hh => ?place,
    fun s scr hplaced => ⟨fun hin => State.keepPlaced_of_law ⟨scr, hplaced, hin⟩, fun hlost hbefore => ?lost⟩,
    fun t s tag rest scr hasks => ?read⟩
  case place =>
    intro old refused onePlaced unchained fits apart written
    have hparse := parsePlacement_fields scr placed always red green blue hx hy hw hh
    refine ⟨fun hbad => ?_, fun hgood => ?_⟩
    · rw [if_neg hbad] at hparse
      refine requestPlaceScreen_keeps.exec_asks hasks (u := (s.at t).keepPlaced) (rep := .bare .badValue) ?_
      rw [requestPlaceScreen, hparse]
    rw [if_pos hgood] at hparse
    let placement := Placement.mk placed r always { red := red, green := green, blue := blue }
    have howner := requestPlaceScreen_of_parse hparse (s.at t)
    have hrefuse {status : Status} (h : s.lco.placementRefusal scr placement = some status) :
        exec (.placeScreen t) s = .next (refused status.code) := by
      rw [State.at_lco, h] at howner
      exact requestPlaceScreen_keeps.exec_asks hasks howner
    obtain ⟨hone, hchain, hfits, hapart, hpass⟩ := placementRefusal_cases s.lco scr placement
    refine ⟨fun h0 => hrefuse (hone h0), fun h0 h1 => hrefuse (hchain h0 h1), fun h0 h1 h2 => hrefuse (hfits h0 h1 h2),
      fun h0 h1 h2 h3 => hrefuse (hapart h0 h1 h2 h3), fun h0 h1 h2 h3 => ?_⟩
    rw [State.at_lco, hpass h0 h1 h2 h3] at howner
    exact requestPlaceScreen_keeps.exec_asks hasks howner
  case lost =>
    rw [State.keepPlaced_of_lost hlost, State.recentre_eq (lowestPlaced_eq hplaced hbefore)]
    rfl
  case read =>
    intro r start pending power
    have howner : requestReadScreen [byte scr.val] (s.at t) = (s.at t, .okWith ((s.at t).screenBytes scr)) :=
      congrArg _ (readIndexed_byte (by decide) _ scr)
    refine requestReadScreen_keeps.exec_asks hasks howner (hdata := ?_)
    change 0 :: (s.at t).screenBytes scr = _
    have hstart (c : Option TileId) : startField c = start c := by
      cases c with
      | none => rfl
      | some q => exact startField_some q
    have hpending : pendingField r.pending = pending := by
      cases h : r.pending with
      | none => simp only [pending, h]; rfl
      | some c => simp only [pending, h]; exact hstart c
    have hpower : ((s.at t).power scr).code = power := by
      change s.wpc.power[scr].code = power
      simp only [power]
      cases s.wpc.power[scr] <;> rfl
    have hbytes : (s.at t).screenBytes scr = [byte scr.val, flagByte r.placed] ++ r.rect.bytes ++
      flagByte r.alwaysOn :: r.background.bytes ++ startField r.active ++ pendingField r.pending ++
        [((s.at t).power scr).code] := rfl
    rw [hbytes, hstart, hpending, hpower]
    simp only [Rect.bytes, le16, Colour.bytes, List.append_assoc, List.cons_append, List.nil_append]

end Sys2Proof.Machine
end

section
/-! The events of the ports: attach and enumeration of desk ports (R2, R3), the bus events and requests of computer ports (R103 to
R108), polls (R112, R116) and a change of port state (R109, R110). -/

namespace Sys2Proof.Machine

variable {s : State}

/-! ### Desk ports -/

theorem State.attachDevice_empty {p : DeskPortId} (h : s.diu[p] = .empty) :
    s.attachDevice p = s.enterDesk p (.enumerating (s.clock + 1000)) := by
  simp only [State.attachDevice, h]

theorem State.attachDevice_other {p : DeskPortId} (h : s.diu[p] ≠ .empty) : s.attachDevice p = s := by
  unfold State.attachDevice
  split
  · contradiction
  · rfl

theorem State.endEnumeration_enumerating {p : DeskPortId} {d : Time} (h : s.diu[p] = .enumerating d) (o : Offers) :
    s.endEnumeration p o = s.enterDesk p (portOffered o) := by
  simp only [State.endEnumeration, h]

theorem State.endEnumeration_other {p : DeskPortId} (h : ∀ d, s.diu[p] ≠ .enumerating d) (o : Offers) :
    s.endEnumeration p o = s := by
  unfold State.endEnumeration
  split
  · next d hd => exact absurd hd (h d)
  · rfl

theorem State.expireEnumeration_enumerating {p : DeskPortId} {d : Time} (h : s.diu[p] = .enumerating d) :
    s.expireEnumeration p = if d ≤ s.clock then s.enterDesk p (.unsupported .noResponse) else s := by
  simp only [State.expireEnumeration, h, State.due, decide_eq_true_eq]

theorem State.expireEnumeration_other {p : DeskPortId} (h : ∀ d, s.diu[p] ≠ .enumerating d) : s.expireEnumeration p = s := by
  unfold State.expireEnumeration
  split
  · next d hd => exact absurd hd (h d)
  · rfl

theorem portOffered_eq (o : Offers) : portOffered o =
    if o.bootKeyboard then .keyboard 0 [] else if o.bootPointer then .pointer 0
    else .unsupported (if o.hub then .hub else .notBoot) := by
  unfold portOffered
  cases o.hub <;> rfl

/-- Settles O12, by the desk port's state. -/
theorem deskPortEnumeration : Obligations.DeskPortEnumeration := by
  unfold Obligations.DeskPortEnumeration
  intro t p s now entered
  have hsame {c : Instr} {v : State} (hexec : exec c s = .next v) {u : State} (h : v = u) : exec c s = .next u := by
    rw [hexec, h]
  refine ⟨fun h => hsame rfl (State.attachDevice_empty (s := s.at t) h), fun h => hsame rfl (State.attachDevice_other (s := s.at t) h),
    fun d o h => hsame rfl ?_, fun d h => hsame rfl (State.expireEnumeration_enumerating (s := s.at t) h),
    fun h => ⟨fun o => hsame rfl (State.endEnumeration_other (s := s.at t) h o),
      hsame rfl (State.expireEnumeration_other (s := s.at t) h)⟩⟩
  rw [State.endEnumeration_enumerating (s := s.at t) h, portOffered_eq]
  rfl

/-! ### Bus events -/

section
variable (c : Comp) (s : State)

theorem State.powerPresent_eq : s.powerPresent c = if (s.comp c).port = .detached then s.portEvent c .powered else s := by
  unfold State.powerPresent
  cases (s.comp c).port <;> rfl

theorem State.powerLost_eq :
    s.powerLost c = if (s.comp c).port = .detached then s else (s.setAddress c 0).portEvent c .detached := by
  unfold State.powerLost
  cases (s.comp c).port <;> rfl

theorem State.resetBus_eq :
    s.resetBus c = if (s.comp c).port = .detached then s else (s.setAddress c 0).portEvent c .default := by
  unfold State.resetBus
  cases (s.comp c).port <;> rfl

theorem State.idleBus_eq : s.idleBus c = if (s.comp c).port = .configured then s.portEvent c .suspended else s := by
  unfold State.idleBus
  cases (s.comp c).port <;> rfl

theorem State.resumeBus_eq : s.resumeBus c =
    if (s.comp c).port = .suspended ∨ (s.comp c).port = .resuming then s.portEvent c .configured else s := by
  unfold State.resumeBus
  cases (s.comp c).port <;> simp

theorem State.completeResume_eq :
    s.completeResume c = if (s.comp c).port = .resuming then s.portEvent c .configured else s := by
  unfold State.completeResume
  cases (s.comp c).port <;> rfl

theorem State.selectConfiguration1_eq : s.selectConfiguration1 c =
    if (s.comp c).port = .default then (s.answer c .acknowledged).portEvent c .configured
    else if (s.comp c).port = .configured then s.answer c .acknowledged else s := by
  unfold State.selectConfiguration1
  cases (s.comp c).port <;> rfl

theorem State.selectConfiguration_zero : s.selectConfiguration c 0 =
    if (s.comp c).port = .configured then (s.answer c .acknowledged).portEvent c .default
    else if (s.comp c).port = .default then s.answer c .acknowledged else s := by
  unfold State.selectConfiguration
  cases (s.comp c).port <;> rfl

theorem State.selectConfiguration_stalled {n : Byte} (h0 : n ≠ 0) (h1 : n ≠ 1) : s.selectConfiguration c n =
    if (s.comp c).port = .configured ∨ (s.comp c).port = .default then s.answer c .stall else s := by
  unfold State.selectConfiguration
  rw [if_neg h1, if_neg h0]
  have hzero : ¬ n = 0#8 := h0
  cases (s.comp c).port <;> simp [hzero]

/-- R102: a state that is the same is no change. -/
theorem State.changePort_same (re : State → State) {new : PortState} (h : (s.comp c).port = new) : s.changePort re c new = s :=
  if_pos h

end

/-- Settles O35, by the port's state. -/
theorem busEventsMoveThePort : Obligations.BusEventsMoveThePort := by
  unfold Obligations.BusEventsMoveThePort
  intro t c s r u wrote enters
  have hkept : wrote r = u := u.setComp_self c
  have hnext {i : Instr} {v : State} (hexec : exec i s = .next v) {w : State} (h : v = w) : exec i s = .next w := by
    rw [hexec, h]
  have hreset : (u.resetBus c) = if r.port = .detached then u else enters { r with address := 0 } .default :=
    State.resetBus_eq c u
  refine ⟨?_, hnext rfl (State.powerLost_eq c u), hnext rfl hreset, fun hdefault => hnext rfl ?_, ?_, ?_, ?_,
    hnext rfl (State.selectConfiguration1_eq c u), hnext rfl (State.selectConfiguration_zero c u),
    fun n h0 h1 => hnext rfl (State.selectConfiguration_stalled c u h0 h1)⟩
  · simp only [enters, hkept]
    exact hnext rfl (State.powerPresent_eq c u)
  · rw [hreset, if_neg (by rw [hdefault]; nofun)]
    refine State.changePort_same c _ _ ?_
    exact (congrArg Computer.port (State.comp_setComp_same u c _)).trans hdefault
  · simp only [enters, hkept]
    exact hnext rfl (State.idleBus_eq c u)
  · simp only [enters, hkept]
    exact hnext rfl (State.resumeBus_eq c u)
  · simp only [enters, hkept]
    exact hnext rfl (State.completeResume_eq c u)

/-! ### The requests of a computer -/

section
variable (c : Comp) (s : State)

theorem State.askDescriptor_eq (which : DescriptorKind) : s.askDescriptor c which =
    if (s.comp c).port = .default ∨ (s.comp c).port = .configured ∧ Config.configuredAnswersDescriptors = true
    then s.answerDescriptor c which else s := by
  unfold State.askDescriptor
  cases (s.comp c).port <;> simp

theorem State.assignAddress_eq (address : BitVec 7) : s.assignAddress c address =
    if (s.comp c).port = .default ∨ (s.comp c).port = .configured ∧ Config.configuredTakesAddress = true
    then s.setAddress c address else s := by
  unfold State.assignAddress
  cases (s.comp c).port <;> simp

theorem State.permitWake_eq (allowed : Bool) : s.permitWake c allowed =
    if (s.comp c).port = .configured then s.setComp c { s.comp c with remoteWake := allowed, answer := .acknowledged }
    else if (s.comp c).port = .default then s.answer c .stall else s := by
  unfold State.permitWake
  cases (s.comp c).port <;> rfl

end

/-- Settles O38, by the port's state. -/
theorem portAnswersItsComputer : Obligations.PortAnswersItsComputer := by
  unfold Obligations.PortAnswersItsComputer
  intro t c s r u wrote
  refine ⟨fun which => ?_, fun address => congrArg Host.Outcome.next (State.assignAddress_eq c u address),
    congrArg Host.Outcome.next (State.permitWake_eq c u true), congrArg Host.Outcome.next (State.permitWake_eq c u false)⟩
  intro facts
  refine (congrArg Host.Outcome.next (State.askDescriptor_eq c u which)).trans ?_
  cases which <;> rfl

/-! ### Polls -/

theorem Computer.takePoll_of_not_configured {r : Computer} (h : r.port ≠ .configured) (ack : Bool) : r.takePoll ack = r := if_neg h

/-- R112: what a poll of a CONFIGURED port sends, and whether it is taken. -/
def Computer.polled (r : Computer) (ack : Bool) : Computer :=
  match r.queue with
  | [] => { r with answer := .noData }
  | e :: rest => { r with answer := .entry e.bytes, queue := if ack then rest else e :: rest }

theorem Computer.takePoll_of_configured {r : Computer} (h : r.port = .configured) (ack : Bool) :
    r.takePoll ack = if (r.polled ack).hasRoom && ((r.polled ack).owedKeyboard || (r.polled ack).owedPointer)
      then (r.polled ack).payOwed else r.polled ack := if_pos h

theorem Computer.polled_frame (r : Computer) (ack : Bool) :
    r.polled ack = { r with answer := (r.polled ack).answer, queue := (r.polled ack).queue } := by
  unfold Computer.polled
  split <;> rfl

section
variable {r : Computer}

theorem Computer.payOwed_keyboard (howed : r.owedKeyboard = true) (hnew : r.lastSnapshot ≠ some (snapshotOf r.keySet)) :
    r.payOwed = { r with
      queue := r.queue ++ [.keyboard (snapshotOf r.keySet)], lastSnapshot := some (snapshotOf r.keySet),
      owedKeyboard := false } := by
  rw [Computer.payOwed, if_pos howed]
  exact if_neg hnew

/-- R116: a snapshot that is not owed, or is the last one queued, is skipped for the pointer. -/
theorem Computer.payOwed_pointer (h : r.owedKeyboard = true → r.lastSnapshot = some (snapshotOf r.keySet)) :
    r.payOwed = ({ r with owedKeyboard := false }).payPointer := by
  unfold Computer.payOwed
  split
  · next howed => exact if_pos (h howed)
  · next howed => rw [← Bool.eq_false_iff.mpr howed]

theorem Computer.payPointer_not_owed (h : r.owedPointer = false) : r.payPointer = r := if_neg (by rw [h]; nofun)

theorem Computer.payPointer_none (howed : r.owedPointer = true) (hnone : r.lastPointer = none) :
    r.payPointer = { r with owedPointer := false } := by
  simp only [Computer.payPointer, howed, hnone, if_true]

/-- R116: the pointer payment folds into a youngest entry of its buttons, its last sent state what it was. -/
theorem Computer.payPointer_of_folds {p q : PointerState} {older : List Entry} {v : Int} (howed : r.owedPointer = true)
    (hlast : r.lastPointer = some p) (hqueue : r.queue = older ++ [.pointer q v]) (hbuttons : q.buttons = p.buttons) :
    r.payPointer = { r with owedPointer := false, queue := older ++ [.pointer p (max (-127) (min 127 v))] } := by
  simp only [Computer.payPointer, howed, hlast, if_true]
  refine (Computer.placePointer_of_folds (q := q) (v := v) (older := older) ?_ hbuttons 0).trans (by rw [Int.add_zero])
  exact hqueue

theorem Computer.payPointer_of_room {p : PointerState} (howed : r.owedPointer = true) (hlast : r.lastPointer = some p)
    (hfold : ¬ Folds r.queue p) (hroom : r.queue.length < 16) :
    r.payPointer = { r with owedPointer := false, queue := r.queue ++ [.pointer p 0] } := by
  simp only [Computer.payPointer, howed, hlast, if_true]
  refine Computer.placePointer_of_room ?_ ?_ 0
  · exact hfold
  · exact hroom

end

/-- R185: the layout of an entry. -/
theorem Entry.bytes_eq (e : Entry) : e.bytes = match e with
    | .keyboard snap => [1, snap.mods, 0] ++ snap.slots.toList
    | .pointer p w => [2, p.buttons.setWidth 8, byte p.ax, byte (p.ax / 256), byte p.ay, byte (p.ay / 256), BitVec.ofInt 8 w]
    | .system code => [3, match code with
      | .none => 0
      | .sleep => 1
      | .wake => 2] := by
  rcases e with snap | ⟨p, w⟩ | (_ | _ | _) <;> rfl

/-- Settles O39, by what is owed and what folds. -/
theorem pollSendsTheOldestEntry : Obligations.PollSendsTheOldestEntry := by
  unfold Obligations.PollSendsTheOldestEntry
  intro t c ack s r layout sent wrote snap fold
  have hsent : r.polled ack = sent := by
    simp only [Computer.polled, Entry.bytes_eq, sent]
    cases r.queue <;> rfl
  obtain ⟨answer, queue, hframe⟩ : ∃ answer queue, sent = { r with answer := answer, queue := queue } :=
    ⟨_, _, hsent ▸ r.polled_frame ack⟩
  have hpoll : exec (.poll t c ack) s = .next (wrote (r.takePoll ack)) := rfl
  refine ⟨fun hport => ?_, fun hport => ?_⟩
  · rw [hpoll, Computer.takePoll_of_not_configured hport]
    exact congrArg Host.Outcome.next ((s.at t).setComp_self c)
  · have howedKeyboard : sent.owedKeyboard = r.owedKeyboard := by rw [hframe]
    have howedPointer : sent.owedPointer = r.owedPointer := by rw [hframe]
    have hlastSnapshot : sent.lastSnapshot = r.lastSnapshot := by rw [hframe]
    have hlastPointer : sent.lastPointer = r.lastPointer := by rw [hframe]
    have hsnap : snapshotOf sent.keySet = snap := by rw [hframe]
    have htake := Computer.takePoll_of_configured hport ack
    rw [hsent, howedKeyboard, howedPointer] at htake
    have hunpaid (h : 16 ≤ sent.queue.length ∨ (r.owedKeyboard = false ∧ r.owedPointer = false)) : r.takePoll ack = sent := by
      refine htake.trans (if_neg ?_)
      obtain hfull | ⟨hk, hp⟩ := h
      · rw [Computer.hasRoom_of_le hfull]; nofun
      · rw [hk, hp, Bool.or_self, Bool.and_false]; nofun
    have hpaid (hroom : sent.queue.length < 16) (h : r.owedKeyboard = true ∨ r.owedPointer = true) :
        r.takePoll ack = sent.payOwed := by
      refine htake.trans (if_pos ?_)
      rw [Computer.hasRoom_of_lt hroom, Bool.true_and, Bool.or_eq_true]
      exact h
    refine ⟨fun h => hunpaid h ▸ hpoll, fun hroom howed hnew => ?_, fun hroom hsame => ⟨fun hp => ?_, fun hp => ?_⟩⟩
    · rw [hpoll, hpaid hroom (.inl howed), Computer.payOwed_keyboard (howedKeyboard.trans howed)
        (by rw [hlastSnapshot, hsnap]; exact hnew), hsnap]
    · cases hk : r.owedKeyboard
      · rw [hpoll, hunpaid (.inr ⟨hk, hp⟩)]
        refine congrArg (fun b => Host.Outcome.next (wrote { sent with owedKeyboard := b })) (howedKeyboard.trans hk)
      · have hskip : sent.payOwed = { sent with owedKeyboard := false } :=
          (Computer.payOwed_pointer fun _ => by rw [hlastSnapshot, hsnap]; exact hsame hk).trans
            (Computer.payPointer_not_owed (howedPointer.trans hp))
        rw [hpoll, hpaid hroom (.inl hk), hskip]
    · have hpay : r.takePoll ack = ({ sent with owedKeyboard := false }).payPointer := by
        rw [hpaid hroom (.inr hp)]
        exact Computer.payOwed_pointer fun hk => by rw [hlastSnapshot, hsnap]; exact hsame (howedKeyboard.symm.trans hk)
      have howed : ({ sent with owedKeyboard := false } : Computer).owedPointer = true := howedPointer.trans hp
      rw [hpoll, hpay]
      refine ⟨fun hnone => ?_, fun p older q v hlast hqueue hbuttons => ?_, fun p hlast hfold => ?_⟩
      · rw [Computer.payPointer_none howed (hlastPointer.trans hnone)]
      · rw [Computer.payPointer_of_folds howed (hlastPointer.trans hlast) hqueue hbuttons]
      · rw [Computer.payPointer_of_room howed (hlastPointer.trans hlast) ?_ hroom]
        rintro ⟨older, q, v, hqueue, hbuttons⟩
        exact hfold ⟨older, q, v, p, hqueue, hlast, hbuttons⟩

/-! ### A change of port state -/

/-- R109: the record on entering a state, as the rule words it. -/
theorem Computer.enter_eq (new : PortState) (r : Computer) : r.enter new =
    if r.port.accepting && !new.accepting then { r with
      port := new, queue := [], keySet := [], owedKeyboard := false, owedPointer := false, lastSnapshot := none,
      lastPointer := none, remoteWake := false }
    else { r with port := new, remoteWake := if new = .default ∨ new = .detached then false else r.remoteWake } := by
  unfold Computer.enter
  cases new <;> cases r.port.accepting <;> simp [PortState.accepting, Computer.cleared]

theorem compSetOf_eq_zero_iff (test : Comp → Bool) : compSetOf test = 0 ↔ ∀ c, test c = false := by
  refine ⟨fun h c => ?_, fun h => BitVec.eq_of_getLsbD_eq fun i hi => ?_⟩
  · rw [← inSet_compSetOf test c, h]
    simp [inSet]
  · have hbit := inSet_compSetOf test ⟨i, hi⟩
    rw [h] at hbit
    simpa [inSet] using hbit

theorem asleepForDesk_iff (p : PortState) : p.asleepForDesk = true ↔ p = .suspended ∨ p = .default ∨ p = .detached := by
  cases p <;> simp [PortState.asleepForDesk]

theorem State.notAsleep_eq_zero_iff (s : State) (awaited : CompSet) : s.notAsleep awaited = 0 ↔
    ∀ c : Comp, awaited.getLsbD c.val = true →
      (s.comp c).port = .suspended ∨ (s.comp c).port = .default ∨ (s.comp c).port = .detached := by
  rw [State.notAsleep, compSetOf_eq_zero_iff]
  refine forall_congr' fun c => ?_
  rw [← asleepForDesk_iff, Bool.and_eq_false_iff, inSet, Bool.not_eq_false']
  cases awaited.getLsbD c.val <;> simp

theorem State.changePort_differs (re : State → State) {c : Comp} {new : PortState} (h : (s.comp c).port ≠ new) :
    s.changePort re c new = (s.enterPort c new).afterChange re c (s.comp c).port new := if_neg h

/-- R154: the end of an attempt, where there is one. -/
theorem State.endAttempt_some {c : Comp} {a : WakeAttempt} (h : s.wpc.wakes[c] = some a) (result : WakeEnd) :
    s.endAttempt c result = (s.setWpc { s.wpc with wakes := s.wpc.wakes.set c none }).notify
      (.wakeResult c result a.cause (elapsedByte a.start s.clock)) := by
  simp only [State.endAttempt, h]

theorem State.endAttempt_none {c : Comp} (h : s.wpc.wakes[c] = none) (result : WakeEnd) : s.endAttempt c result = s := by
  simp only [State.endAttempt, h]

/-- The completion test, asked of the set that the change may have emptied (R157). -/
theorem State.completionTest_eq (re : State → State) (s : State) :
    (s.wpc.desk = .sleepRequested → s.notAsleep s.wpc.awaited = 0 → s.completionTest re = s.enterAsleep re .allAsleep) ∧
    (¬ (s.wpc.desk = .sleepRequested ∧ s.notAsleep s.wpc.awaited = 0) → s.completionTest re = s) :=
  ⟨fun hdesk hnone => if_pos ⟨hdesk, hnone⟩, fun h => if_neg h⟩

/-- Settles O36, step by step of what follows the change. -/
theorem portChangeIsToldInOrder : Obligations.PortChangeIsToldInOrder := by
  unfold Obligations.PortChangeIsToldInOrder
  refine ⟨fun re c s => State.changePort_same c s re rfl, fun c new s hne => ?_⟩
  intro old record held s1 result s2 complete
  have hrecord : (s.comp c).enter new = record := Computer.enter_eq new (s.comp c)
  have hheld : (if old.accepting && !new.accepting then { s.rtf with held := s.rtf.held.map (HeldKey.without c) } else s.rtf)
      = { s.rtf with held := held } := by
    simp only [held]
    split <;> rfl
  have hcomp : (s.enterPort c new).comp c = record := by
    rw [enterPort_eq, ← hrecord]
    exact State.comp_setComp_same s c _
  have hentered : (s.enterPort c new).notify (.portState c new old ((s.enterPort c new).comp c).remoteWake) = s1 := by
    rw [hcomp, enterPort_eq, hrecord, hheld]
    rfl
  have hended : (if old = .resuming then s1.endAttempt c new.wakeEnd else s1) = s2 := by
    simp only [s2]
    split
    · next hold =>
      cases ha : s.wpc.wakes[c] with
      | none => exact State.endAttempt_none (s := s1) ha _
      | some a =>
        rw [State.endAttempt_some (s := s1) ha]
        rfl
    · next hold => cases s.wpc.wakes[c] <;> rfl
  have hframe : s2.wpc.desk = s.wpc.desk ∧ s2.wpc.awaited = s.wpc.awaited ∧ s2.cps = s1.cps := by
    simp only [s2]
    split
    · split <;> exact ⟨rfl, rfl, rfl⟩
    · exact ⟨rfl, rfl, rfl⟩
  obtain ⟨hdesk, hawaited, hcps⟩ := hframe
  have hchange : s.changePort State.reevaluate c new =
      ((if inSet s.wpc.awaited c then s2.completionTest State.reevaluate else s2).reevaluateScreens State.reevaluate).deriveLeds := by
    rw [State.changePort_differs _ hne]
    unfold State.afterChange
    dsimp only
    rw [hentered, hended, hawaited]
  have htest : complete ↔ inSet s.wpc.awaited c = true ∧ s2.wpc.desk = .sleepRequested ∧ s2.notAsleep s2.wpc.awaited = 0 := by
    rw [State.notAsleep_eq_zero_iff, hdesk, hawaited]
    simp only [complete, State.comp, hcps, inSet]
    exact and_left_comm
  rw [hchange]
  refine ⟨fun h => ?_, fun h => ?_⟩
  · obtain ⟨hin, hrequested, hnone⟩ := htest.mp h
    rw [if_pos hin, (State.completionTest_eq _ s2).1 hrequested hnone]
  · split
    · next hin => rw [(State.completionTest_eq _ s2).2 fun hboth => h (htest.mpr ⟨hin, hboth⟩)]
    · rfl

end Sys2Proof.Machine
end

section
/-! Re-evaluation and dwell (R66, R70, R71, R88, R89), and wake attempts (R151, R153, R154). -/

namespace Sys2Proof.Machine

variable {s : State}

/-! ### The re-evaluation -/

/-- R88 step 2: the park that a re-evaluation leaves. -/
def State.parkAfter (s : State) : Option TileRef := if s.fcu.park = some s.hitTest.1 then s.fcu.park else none

/-- R89: the pending target that a re-evaluation leaves. -/
def State.pendingAfter (s : State) : Option Pending :=
  match s.hitTest.2 with
  | none => none
  | some hit =>
    if hit.target ≠ s.fcu.focus ∧ s.fcu.lock = .none ∧ s.fcu.guard = none ∧ s.parkAfter = none then
      (match s.fcu.pending with
        | some p => if p.target = hit.target then some p else some { target := hit.target, deadline := s.clock + s.ptu.dwell }
        | none => some { target := hit.target, deadline := s.clock + s.ptu.dwell })
    else none

theorem State.clearPark_eq (s : State) : s.clearPark =
    { s with fcu := { s.fcu with park := if s.fcu.park = some s.ptu.hitTile then s.fcu.park else none } } := by
  unfold State.clearPark
  split
  · next tile hpark =>
    simp only [hpark, Option.some.injEq]
    split
    · rw [← hpark]
    · rfl
  · next hpark =>
    simp only [hpark, reduceCtorEq, if_false]
    rw [← hpark]

theorem State.dwellTarget_eq (s : State) : s.dwellTarget =
    match s.ptu.hit with
    | none => none
    | some hit =>
      if hit.target ≠ s.fcu.focus ∧ s.fcu.lock = .none ∧ s.fcu.guard = none ∧ s.fcu.park = none then some hit.target
      else none := by
  unfold State.dwellTarget State.hitComputer
  cases s.ptu.hit <;> rfl

theorem State.glideDecision_some {u : Comp} (h : s.dwellTarget = some u) : s.glideDecision =
    { s with fcu := { s.fcu with pending := match s.fcu.pending with
      | some p => if p.target = u then some p else some { target := u, deadline := s.clock + s.ptu.dwell }
      | none => some { target := u, deadline := s.clock + s.ptu.dwell } } } := by
  simp only [State.glideDecision, h]
  cases hp : s.fcu.pending with
  | none => rfl
  | some p =>
    simp only [Option.map_some, Option.some.injEq]
    split
    · rw [← hp]
    · rfl

theorem State.glideDecision_none (h : s.dwellTarget = none) : s.glideDecision = { s with fcu := { s.fcu with pending := none } } := by
  simp only [State.glideDecision, h]
  rfl

/-- R88: what a re-evaluation comes to before the request it may make. -/
theorem State.reevaluateCore_eq (s : State) : s.reevaluateCore = { s with
    ptu := { s.ptu with hitTile := s.hitTest.1, hit := s.hitTest.2 }
    fcu := { s.fcu with park := s.parkAfter, pending := s.pendingAfter } } := by
  have hstart : s.makeHitTest.clearPark = { s with
      ptu := { s.ptu with hitTile := s.hitTest.1, hit := s.hitTest.2 }, fcu := { s.fcu with park := s.parkAfter } } :=
    State.clearPark_eq s.makeHitTest
  have htarget := State.dwellTarget_eq s.makeHitTest.clearPark
  unfold State.reevaluateCore
  rw [hstart] at htarget ⊢
  dsimp only at htarget
  cases hhit : s.hitTest.2 with
  | none =>
    rw [hhit] at htarget
    rw [State.glideDecision_none (htarget.trans rfl), State.pendingAfter, hhit]
  | some hit =>
    rw [hhit] at htarget
    dsimp only at htarget
    rw [State.pendingAfter, hhit]
    dsimp only
    split
    · next hrun =>
      rw [if_pos hrun] at htarget
      rw [State.glideDecision_some htarget]
    · next hrun =>
      rw [if_neg hrun] at htarget
      rw [State.glideDecision_none htarget]

theorem glideDue_of_ne {core : State} (h : core.ptu.dwell ≠ 0) : glideDue s core = none := if_neg fun hboth => h hboth.1

/-- With a dwell setting other than 0 a re-evaluation makes no request (R89). -/
theorem State.reevaluate_of_dwell (h : s.ptu.dwell ≠ 0) : s.reevaluate = s.reevaluateCore := by
  have hnone : glideDue s s.reevaluateCore = none := glideDue_of_ne (by rw [State.reevaluateCore_eq]; exact h)
  rw [State.reevaluate, hnone]

/-- R89, third row: with a dwell setting of 0, the request for the target just made pending. -/
theorem State.reevaluate_of_zero (h : s.ptu.dwell = 0) : s.reevaluate =
    match s.pendingAfter with
    | some p =>
      if s.fcu.pending.map Pending.target = some p.target then s.reevaluateCore
      else s.reevaluateCore.requestFocus p.target .glide false
    | none => s.reevaluateCore := by
  have hdue : glideDue s s.reevaluateCore = match s.pendingAfter with
      | some p => if s.fcu.pending.map Pending.target = some p.target then none else some p.target
      | none => none := by
    rw [glideDue, State.reevaluateCore_eq]
    dsimp only
    cases hp : s.pendingAfter with
    | none => split <;> rfl
    | some p =>
      by_cases heq : s.fcu.pending.map Pending.target = some p.target
      · rw [if_neg (fun hboth => hboth.2 heq.symm)]
        exact (if_pos heq).symm
      · rw [if_pos ⟨h, Ne.symm heq⟩]
        exact (if_neg heq).symm
  rw [State.reevaluate, hdue]
  cases s.pendingAfter with
  | none => rfl
  | some p => by_cases heq : s.fcu.pending.map Pending.target = some p.target <;> simp only [heq, if_true, if_false]

/-- Settles O23. -/
theorem reevaluationDecidesDwell : Obligations.ReevaluationDecidesDwell := by
  unfold Obligations.ReevaluationDecidesDwell
  intro s park pending decided
  have hpending : s.pendingAfter = pending := by
    unfold State.pendingAfter
    simp only [pending]
    cases s.hitTest.2 with
    | none => rfl
    | some hit => cases s.fcu.pending <;> rfl
  have hcore : s.reevaluateCore = decided := by
    rw [State.reevaluateCore_eq, hpending]
    rfl
  refine ⟨fun h => (State.reevaluate_of_dwell h).trans hcore, fun h => ?_⟩
  have hzero := State.reevaluate_of_zero h
  rw [hcore, hpending] at hzero
  refine ⟨fun p hp hnew => ?_, fun p hp hsame => ?_, fun hnone => ?_⟩
  · rw [hp] at hzero
    exact hzero.trans (if_neg hnew)
  · rw [hp] at hzero
    exact hzero.trans (if_pos hsame)
  · rw [hnone] at hzero
    exact hzero

/-! ### Wakes -/

section
variable {c : Comp} (re : State → State) (cause : WakeCause)

/-- R151: an attempt starts on a SUSPENDED port that permits it. -/
theorem State.wake_suspended (hport : (s.comp c).port = .suspended) (hpermit : (s.comp c).remoteWake = true) :
    s.wake re c cause = (s.setWpc { s.wpc with
      wakes := s.wpc.wakes.set c (some (WakeAttempt.mk cause s.clock (s.clock + s.wpc.wakeTimeout))) }).changePort re c .resuming := by
  simp only [State.wake, Computer.wakeAnswer, hport, hpermit]

theorem State.wake_refused (hport : (s.comp c).port = .suspended) (hpermit : (s.comp c).remoteWake = false) :
    s.wake re c cause = s.notify (.wakeResult c .noPermission cause 0) := by
  simp only [State.wake, Computer.wakeAnswer, hport, hpermit]

theorem State.wake_other (hport : (s.comp c).port ≠ .suspended) : s.wake re c cause = s := by
  unfold State.wake Computer.wakeAnswer
  cases h : (s.comp c).port
  case suspended => exact absurd h hport
  all_goals cases (s.comp c).remoteWake <;> rfl

end

theorem requestWakeComputer_byte (c : Comp) (s : State) : requestWakeComputer [byte c.val] s = s.hostWake c := by
  have hc : index 8 (at8 [byte c.val] 0) = some c := index_byte (by decide) c
  rw [requestWakeComputer, if_neg (by simp), hc]

theorem State.expireWake_resuming {c : Comp} {a : WakeAttempt} (ha : s.wpc.wakes[c] = some a) (hport : (s.comp c).port = .resuming) :
    s.expireWake c = if a.deadline ≤ s.clock then (s.setComp c (s.comp c).timedOut).portEvent c .suspended else s := by
  simp only [State.expireWake, ha, hport, State.due, decide_eq_true_eq]

theorem State.expireWake_other {c : Comp} (h : s.wpc.wakes[c] = none ∨ (s.comp c).port ≠ .resuming) : s.expireWake c = s := by
  unfold State.expireWake
  split
  · next a ha hport => exact absurd h (by simp [ha, hport])
  · rfl

/-- Settles O51, by the port's state and permission. -/
theorem wakesAreAttemptedAndExpire : Obligations.WakesAreAttemptedAndExpire := by
  unfold Obligations.WakesAreAttemptedAndExpire
  intro t s c r u now
  refine ⟨fun re cause => ⟨fun hport hpermit => State.wake_suspended re cause hport hpermit,
    fun hport hpermit => State.wake_refused re cause hport hpermit, fun hport => State.wake_other re cause hport⟩,
    fun tag rest hasks => ?request, fun a ha hport => ?expiry, fun h => congrArg Host.Outcome.next (State.expireWake_other (s := u) h)⟩
  case request =>
    intro attempt attempted
    have howner := requestWakeComputer_byte c u
    refine ⟨fun hport hpermit => ?_, fun hport hpermit => ?_, fun hport => ?_, fun hsuspended hresuming => ?_⟩
    · refine requestWakeComputer_keeps.exec_asks hasks (rep := .okWith [0]) (howner.trans ?_)
      have hport' : (u.comp c).port = .suspended := hport
      have hpermit' : (u.comp c).remoteWake = true := hpermit
      simp only [State.hostWake, hport', hpermit', if_true, State.wake_suspended _ _ hport' hpermit']
      rfl
    · refine requestWakeComputer_keeps.exec_asks hasks (rep := .bare .noPermission) (howner.trans ?_)
      have hport' : (u.comp c).port = .suspended := hport
      have hpermit' : (u.comp c).remoteWake = false := hpermit
      simp only [State.hostWake, hport', hpermit', Bool.false_eq_true, if_false]
    · refine requestWakeComputer_keeps.exec_asks hasks (rep := .okWith [1]) (howner.trans ?_)
      have hport' : (u.comp c).port = .resuming := hport
      have hwake := State.wake_other (s := u) State.reevaluate .host (c := c) (by rw [hport']; nofun)
      simp only [State.hostWake, hport', hwake]
    · refine requestWakeComputer_keeps.exec_asks hasks (rep := .bare .wrongState) (howner.trans ?_)
      unfold State.hostWake
      split
      · next h => exact absurd h hresuming
      · next h => exact absurd h hsuspended
      · rfl
  case expiry =>
    have hexpire := State.expireWake_resuming (s := u) ha hport
    exact ⟨fun hdue => congrArg Host.Outcome.next (hexpire.trans (if_pos hdue)),
      fun hearly => congrArg Host.Outcome.next (hexpire.trans (if_neg (Nat.not_le.mpr hearly)))⟩

end Sys2Proof.Machine
end

section
/-! The Route Filter (R43 to R48, R50): what a change of the held key table does to each key set, what a make and a break come to,
and the deadlines that hand held events on (R21, R31, R35). -/

namespace Sys2Proof.Machine

variable {s : State}

/-! ### Key sets -/

/-- R48: an entry of the table holds a usage on a computer. -/
def holdsUsage (held : List HeldKey) (c : Comp) (u : Byte) : Bool := held.any (fun k => decide (k.usage = u) && k.names c)

theorem holdsUsage_iff (held : List HeldKey) (c : Comp) (u : Byte) :
    holdsUsage held c u = true ↔ ∃ k ∈ held, k.usage = u ∧ k.names c = true := by
  simp only [holdsUsage, List.any_eq_true, Bool.and_eq_true, decide_eq_true_eq]

theorem heldUsages_contains (held : List HeldKey) (c : Comp) (u : Byte) : (heldUsages held c).contains u = holdsUsage held c u := by
  rw [Bool.eq_iff_iff, List.contains_iff_mem, heldUsages_mem, holdsUsage_iff]

theorem heldUsages_nodup (held : List HeldKey) (c : Comp) : (heldUsages held c).Nodup := eraseDups_nodup _

/-- R48: where no usage joins, the key set keeps its order and loses those that are held no more. -/
theorem nextKeySet_of_none_joins {held : List HeldKey} {c : Comp} {old : List Byte}
    (h : ∀ u, (∃ k ∈ held, k.usage = u ∧ k.names c = true) → u ∈ old) : nextKeySet held c old = old.filter (holdsUsage held c) := by
  have hjoined : (heldUsages held c).filter (fun u => !old.contains u) = [] := by
    rw [List.filter_eq_nil_iff]
    intro u hu
    simp [h u ((heldUsages_mem held c u).mp hu)]
  rw [nextKeySet, hjoined, List.append_nil]
  exact List.filter_congr fun u _ => heldUsages_contains held c u

/-- R48: an entry that joins the table adds its usage last where it names the computer and the usage is not there yet. -/
theorem nextKeySet_of_joins {held : List HeldKey} {c : Comp} {old : List Byte} (k : HeldKey)
    (h : ∀ u, u ∈ old ↔ ∃ k ∈ held, k.usage = u ∧ k.names c = true) :
    nextKeySet (held ++ [k]) c old = if k.names c = true ∧ k.usage ∉ old then old ++ [k.usage] else old := by
  have hmem (u : Byte) : (∃ j ∈ held ++ [k], j.usage = u ∧ j.names c = true) ↔ u ∈ old ∨ (k.usage = u ∧ k.names c = true) := by
    simp only [List.mem_append, List.mem_singleton, or_and_right, exists_or, exists_eq_left, h]
  have hkept : old.filter (fun u => (heldUsages (held ++ [k]) c).contains u) = old := by
    rw [List.filter_eq_self]
    intro u hu
    rw [List.contains_iff_mem, heldUsages_mem, hmem]
    exact .inl hu
  have hjoined (u : Byte) : u ∈ (heldUsages (held ++ [k]) c).filter (fun u => !old.contains u) ↔
      u = k.usage ∧ k.names c = true ∧ k.usage ∉ old := by
    rw [List.mem_filter, heldUsages_mem, hmem, Bool.not_eq_true', ← Bool.not_eq_true, List.contains_iff_mem]
    constructor
    · rintro ⟨hin | ⟨rfl, hnames⟩, hnot⟩
      · exact absurd hin hnot
      · exact ⟨rfl, hnames, hnot⟩
    · rintro ⟨rfl, hnames, hnot⟩
      exact ⟨.inr ⟨rfl, hnames⟩, hnot⟩
  rw [nextKeySet, hkept]
  split
  · next hnew =>
    congr 1
    rw [← List.perm_singleton, List.perm_ext_iff_of_nodup ((heldUsages_nodup _ _).filter _) (List.nodup_singleton _)]
    intro u
    rw [hjoined, List.mem_singleton]
    exact and_iff_left hnew
  · next hold =>
    rw [List.eq_nil_iff_forall_not_mem.mpr fun u hu => hold ((hjoined u).mp hu).2, List.append_nil]

/-- The state after a change of the held key table: the table, and each computer's record (R48, R50). -/
theorem State.setHeld_cps (s : State) (l : List HeldKey) :
    ∃ cps, s.setHeld l = { s with rtf := { s.rtf with held := l }, cps := cps } ∧
      ∀ c : Comp, cps[c] = (s.comp c).refreshed l c := by
  obtain ⟨cps, heq⟩ := s.setHeld_eq l
  refine ⟨cps, heq, fun c => ?_⟩
  rw [← State.comp_setHeld, heq]
  rfl

/-! ### Makes and breaks -/

theorem HeldKey.isOf_iff (p : DeskPortId) (u : Byte) (k : HeldKey) : HeldKey.isOf p u k = true ↔ k.port = p ∧ k.usage = u := by
  simp only [HeldKey.isOf, Bool.and_eq_true, decide_eq_true_eq]

theorem HeldKey.not_isOf_iff (p : DeskPortId) (u : Byte) (k : HeldKey) :
    (!HeldKey.isOf p u k) = true ↔ ¬ (k.port = p ∧ k.usage = u) := by
  rw [Bool.not_eq_true', ← Bool.not_eq_true, HeldKey.isOf_iff]

theorem State.routeBreak_of_none {p : DeskPortId} {u : Byte} (h : ∀ k ∈ s.rtf.held, ¬ (k.port = p ∧ k.usage = u)) :
    s.routeBreak p u = s := by
  refine if_neg ?_
  simp only [List.any_eq_true, HeldKey.isOf, Bool.and_eq_true, decide_eq_true_eq]
  rintro ⟨k, hk, hof⟩
  exact h k hk hof

theorem State.routeBreak_of_some {p : DeskPortId} {u : Byte} (h : ∃ k ∈ s.rtf.held, k.port = p ∧ k.usage = u) :
    s.routeBreak p u = s.setHeld (s.rtf.held.filter (fun k => !HeldKey.isOf p u k)) := by
  refine if_pos ?_
  simpa only [List.any_eq_true, HeldKey.isOf, Bool.and_eq_true, decide_eq_true_eq] using h

/-- R47: a break leaves no entry of its key. -/
theorem State.routeBreak_held (p : DeskPortId) (u : Byte) (s : State) :
    (s.routeBreak p u).rtf.held = s.rtf.held.filter (fun k => !HeldKey.isOf p u k) := by
  by_cases h : ∃ k ∈ s.rtf.held, k.port = p ∧ k.usage = u
  · rw [State.routeBreak_of_some h, State.setHeld_held]
  · have hnone : ∀ k ∈ s.rtf.held, ¬ (k.port = p ∧ k.usage = u) := fun k hk hof => h ⟨k, hk, hof⟩
    rw [State.routeBreak_of_none hnone, eq_comm, List.filter_eq_self]
    exact fun k hk => (HeldKey.not_isOf_iff p u k).mpr (hnone k hk)

/-- R47, R48, R50: a break as the rule words it: each computer's key set keeps what is still held on it. -/
theorem State.routeBreak_eq (hlaw : s.KeySetLaw) (p : DeskPortId) (u : Byte) :
    ∃ cps, s.routeBreak p u =
        { s with rtf := { s.rtf with held := s.rtf.held.filter (fun k => !HeldKey.isOf p u k) }, cps := cps } ∧
      ∀ c : Comp, cps[c] =
        (let keys := (s.comp c).keySet.filter (holdsUsage (s.rtf.held.filter (fun k => !HeldKey.isOf p u k)) c)
         if keys = (s.comp c).keySet then s.comp c else ({ s.comp c with keySet := keys }).takeSnapshot (snapshotOf keys)) := by
  have hkeys (c : Comp) : nextKeySet (s.rtf.held.filter (fun k => !HeldKey.isOf p u k)) c (s.comp c).keySet =
      (s.comp c).keySet.filter (holdsUsage (s.rtf.held.filter (fun k => !HeldKey.isOf p u k)) c) := by
    refine nextKeySet_of_none_joins fun v ⟨k, hk, huse⟩ => ((hlaw c).2 v).mpr ⟨k, (List.mem_filter.mp hk).1, huse⟩
  by_cases h : ∃ k ∈ s.rtf.held, k.port = p ∧ k.usage = u
  · obtain ⟨cps, heq, hcps⟩ := s.setHeld_cps (s.rtf.held.filter (fun k => !HeldKey.isOf p u k))
    refine ⟨cps, (State.routeBreak_of_some h).trans heq, fun c => ?_⟩
    rw [hcps c, Computer.refreshed, hkeys c]
  · have hnone : ∀ k ∈ s.rtf.held, ¬ (k.port = p ∧ k.usage = u) := fun k hk hof => h ⟨k, hk, hof⟩
    have hall : s.rtf.held.filter (fun k => !HeldKey.isOf p u k) = s.rtf.held := by
      rw [← State.routeBreak_held, State.routeBreak_of_none hnone]
    refine ⟨s.cps, ?_, fun c => ?_⟩
    · rw [State.routeBreak_of_none hnone, hall]
    · rw [hall]
      refine (if_pos ?_).symm
      rw [List.filter_eq_self]
      exact fun v hv => (holdsUsage_iff _ c v).mpr (((hlaw c).2 v).mp hv)

/-- R43: a destination as the rule words it. -/
theorem State.destination_eq (s : State) (p : DeskPortId) (u : Byte) :
    let rule := s.rtf.rules.toList.find? (fun r => r.enabled && r.ports.getLsbD p.val && decide (r.low ≤ u) &&
      decide (u ≤ r.high) && r.cond.met s.deskModifiers)
    s.destination p u = { includeFocus := (rule.map RouteRule.includeFocus).getD true, fixed := (rule.map RouteRule.fixed).getD 0 } := by
  intro rule
  have hrule : s.rtf.rules.toList.find? (fun r => r.matchesMake p u s.deskModifiers) = rule := rfl
  rw [State.destination, hrule]
  cases rule <;> rfl

theorem State.routeMake_empty {p : DeskPortId} {u : Byte} (h : (s.destination p u).isEmpty = true) : s.routeMake p u = s := if_pos h

theorem State.routeMake_of_destination {p : DeskPortId} {u : Byte} (h : (s.destination p u).isEmpty = false) :
    s.routeMake p u = (s.sleepingMembers (s.newEntry p u (s.destination p u))).foldl (State.inputWake State.reevaluate)
      (s.createEntry p u (s.destination p u)) := if_neg (by rw [h]; nofun)

theorem Destination.isEmpty_iff (d : Destination) : d.isEmpty = true ↔ d.includeFocus = false ∧ d.fixed = 0 := by
  simp [Destination.isEmpty]

/-- R45: what the entry of a make names: the focus computer where it is included, and the fixed set, each where its port takes
keys. -/
theorem State.newEntry_names_eq (s : State) (p : DeskPortId) (u : Byte) (d : Destination) (c : Comp) :
    (s.newEntry p u d).names c = ((d.includeFocus && (s.comp s.fcu.focus).port.accepting && decide (c = s.fcu.focus)) ||
      (d.fixed.getLsbD c.val && (s.comp c).port.accepting)) := by
  unfold HeldKey.names State.newEntry
  dsimp only
  rw [inSet_compSetOf]
  congr 1
  split
  · next h => simp [h, eq_comm]
  · next h => simp [Bool.eq_false_iff.mpr h]

/-- R45, R48, R50: a make's entry joins the table, and its usage each key set it names that does not have it. -/
theorem State.createEntry_eq (hlaw : s.KeySetLaw) {p : DeskPortId} {u : Byte} (hnone : ∀ k ∈ s.rtf.held, ¬ (k.port = p ∧ k.usage = u))
    (d : Destination) :
    ∃ cps, s.createEntry p u d = { s with rtf := { s.rtf with held := s.rtf.held ++ [s.newEntry p u d] }, cps := cps } ∧
      ∀ c : Comp, cps[c] = if (s.newEntry p u d).names c = true ∧ u ∉ (s.comp c).keySet
        then ({ s.comp c with keySet := (s.comp c).keySet ++ [u] }).takeSnapshot (snapshotOf ((s.comp c).keySet ++ [u]))
        else s.comp c := by
  obtain ⟨cps, heq, hcps⟩ := s.setHeld_cps (s.rtf.held ++ [s.newEntry p u d])
  refine ⟨cps, ?_, fun c => ?_⟩
  · rw [State.createEntry, State.routeBreak_of_none hnone]
    exact heq
  · have hkeys := nextKeySet_of_joins (s.newEntry p u d) (hlaw c).2
    rw [hcps c, Computer.refreshed]
    by_cases hnew : (s.newEntry p u d).names c = true ∧ u ∉ (s.comp c).keySet
    · rw [if_pos hnew, hkeys.trans (if_pos hnew)]
      exact if_neg (by simp)
    · rw [if_neg hnew, hkeys.trans (if_neg hnew)]
      exact if_pos rfl

theorem State.createEntry_after_break (s : State) (p : DeskPortId) (u : Byte) (d : Destination) :
    (s.routeBreak p u).createEntry p u d = s.createEntry p u d := by
  have hnone : ∀ k ∈ (s.routeBreak p u).rtf.held, ¬ (k.port = p ∧ k.usage = u) := by
    intro k hk
    rw [State.routeBreak_held, List.mem_filter] at hk
    exact (HeldKey.not_isOf_iff p u k).mp hk.2
  unfold State.createEntry
  rw [State.routeBreak_of_none hnone]

/-- A break changes no port and nothing that the destination and the entry of a make are taken from. -/
theorem State.routeBreak_frame (p : DeskPortId) (u : Byte) (s : State) : ∃ held cps,
    s.routeBreak p u = { s with rtf := { s.rtf with held := held }, cps := cps } ∧ ∀ c : Comp, cps[c].port = (s.comp c).port := by
  by_cases h : ∃ k ∈ s.rtf.held, k.port = p ∧ k.usage = u
  · obtain ⟨cps, heq, hcps⟩ := s.setHeld_cps (s.rtf.held.filter (fun k => !HeldKey.isOf p u k))
    exact ⟨_, cps, (State.routeBreak_of_some h).trans heq, fun c => by rw [hcps c, (Computer.refreshed_port _ _ _).1]⟩
  · exact ⟨s.rtf.held, s.cps, State.routeBreak_of_none fun k hk hof => h ⟨k, hk, hof⟩, fun _ => rfl⟩

/-- R45: a make of a key that is held already is first its break. -/
theorem State.routeMake_after_break (s : State) (p : DeskPortId) (u : Byte) (h : (s.destination p u).isEmpty = false) :
    (s.routeBreak p u).routeMake p u = s.routeMake p u := by
  obtain ⟨held, cps, hbreak, hport⟩ := State.routeBreak_frame p u s
  have hdest : (s.routeBreak p u).destination p u = s.destination p u := by rw [hbreak]; rfl
  have hcomp (c : Comp) : ((s.routeBreak p u).comp c).port = (s.comp c).port := by rw [hbreak]; exact hport c
  have hfocus : (s.routeBreak p u).fcu.focus = s.fcu.focus := by rw [hbreak]
  have hentry : (s.routeBreak p u).newEntry p u (s.destination p u) = s.newEntry p u (s.destination p u) := by
    simp only [State.newEntry, hfocus, hcomp]
  rw [State.routeMake_of_destination h, State.routeMake_of_destination (by rw [hdest]; exact h), hdest, hentry,
    State.createEntry_after_break]
  congr 1
  simp only [State.sleepingMembers, hcomp]

/-- The Route Filter takes a make (O15's second clause). -/
theorem State.route_make (p : DeskPortId) (u : Byte) (s : State) :
    let make : KeyEvent := { port := p, make := true, usage := u }
    let rule := s.rtf.rules.toList.find? (fun r => r.enabled && r.ports.getLsbD p.val && decide (r.low ≤ u) &&
      decide (u ≤ r.high) && r.cond.met s.deskModifiers)
    let includeFocus := (rule.map RouteRule.includeFocus).getD true
    let fixed := (rule.map RouteRule.fixed).getD 0
    let toFocus := includeFocus && (s.comp s.fcu.focus).port.accepting
    let named (c : Comp) : Bool := (toFocus && decide (c = s.fcu.focus)) || (fixed.getLsbD c.val && (s.comp c).port.accepting)
    let asleep (c : Comp) : Bool := decide ((s.comp c).port = .suspended) || decide ((s.comp c).port = .resuming)
    (includeFocus = false ∧ fixed = 0 → s.route make = s) ∧
    (¬ (includeFocus = false ∧ fixed = 0) →
      ((∃ k ∈ s.rtf.held, k.port = p ∧ k.usage = u) → s.route make = (s.route { make with make := false }).route make) ∧
      ((∀ k ∈ s.rtf.held, ¬ (k.port = p ∧ k.usage = u)) → s.KeySetLaw →
        ∃ members cps, (∀ c : Comp, members.getLsbD c.val = (fixed.getLsbD c.val && (s.comp c).port.accepting)) ∧
          (∀ c : Comp, cps[c] = if named c = true ∧ u ∉ (s.comp c).keySet
            then ({ s.comp c with keySet := (s.comp c).keySet ++ [u] }).takeSnapshot (snapshotOf ((s.comp c).keySet ++ [u]))
            else s.comp c) ∧
          s.route make = (allComps.filter (fun c => named c && asleep c)).foldl
            (fun v c => if (v.comp c).wakeOnInput = true then v.wake State.reevaluate c .input else v)
            { s with cps := cps, rtf := { s.rtf with held := s.rtf.held ++
              [{ port := p, usage := u, focusMember := if toFocus then some s.fcu.focus else none, fixed := members }] } })) := by
  intro make rule includeFocus fixed toFocus named asleep
  have hdest : s.destination p u = { includeFocus := includeFocus, fixed := fixed } := s.destination_eq p u
  have hempty : (s.destination p u).isEmpty = true ↔ includeFocus = false ∧ fixed = 0 := by
    rw [Destination.isEmpty_iff, hdest]
  refine ⟨fun h => State.routeMake_empty (hempty.mpr h), fun h => ?_⟩
  have hfull : (s.destination p u).isEmpty = false := Bool.eq_false_iff.mpr (mt hempty.mp h)
  refine ⟨fun _ => (State.routeMake_after_break s p u hfull).symm, fun hnone hlaw => ?_⟩
  have hnamed (c : Comp) : (s.newEntry p u (s.destination p u)).names c = named c := by
    rw [State.newEntry_names_eq, hdest]
  obtain ⟨cps, heq, hcps⟩ := State.createEntry_eq hlaw hnone (s.destination p u)
  refine ⟨(s.newEntry p u (s.destination p u)).fixed, cps, fun c => ?_, fun c => ?_, ?_⟩
  · rw [hdest]
    exact inSet_compSetOf _ c
  · rw [hcps c, hnamed c]
  · change s.routeMake p u = _
    rw [State.routeMake_of_destination hfull, heq, State.sleepingMembers]
    simp only [hnamed]
    have hentry : s.newEntry p u (s.destination p u) =
        .mk p u (if toFocus then some s.fcu.focus else none) (s.newEntry p u (s.destination p u)).fixed := by
      rw [hdest]
      rfl
    rw [hentry]
    rfl

/-- The Route Filter takes a break (O15's third clause). -/
theorem State.route_break (p : DeskPortId) (u : Byte) (hlaw : s.KeySetLaw) :
    let held := s.rtf.held.filter (fun k => !(decide (k.port = p) && decide (k.usage = u)))
    ∃ cps, s.route { port := p, make := false, usage := u } = { s with rtf := { s.rtf with held := held }, cps := cps } ∧
      ∀ c : Comp,
        let keys := (s.comp c).keySet.filter (fun v => held.any (fun k => decide (k.usage = v) && k.names c))
        cps[c] = if keys = (s.comp c).keySet then s.comp c
          else ({ s.comp c with keySet := keys }).takeSnapshot (snapshotOf keys) :=
  State.routeBreak_eq hlaw p u

/-! ### The sequencer's deadlines -/

theorem State.expireTap_waiting {phase : TapPhase} {d : Time} (h : s.hks.seq = .firstTap phase d) :
    s.expireTap = if d ≤ s.clock then s.releaseHold else s := by
  simp only [State.expireTap, h, State.due, decide_eq_true_eq]

theorem State.expireTap_other (h : ∀ phase d, s.hks.seq ≠ .firstTap phase d) : s.expireTap = s := by
  unfold State.expireTap
  split
  · next phase d hseq => exact absurd hseq (h phase d)
  · rfl

theorem State.expireCommand_armed {d : Time} (h : s.hks.seq = .armed d) :
    s.expireCommand = if d ≤ s.clock then s.discardHold.notify (.hotkey 0xFF 3 0 0) else s := by
  simp only [State.expireCommand, h, State.due, decide_eq_true_eq]

theorem State.expireCommand_other (h : ∀ d, s.hks.seq ≠ .armed d) : s.expireCommand = s := by
  unfold State.expireCommand
  split
  · next d hseq => exact absurd hseq (h d)
  · rfl

/-- R43: with no rule enabled a make goes to the focus computer. -/
theorem State.destination_default (h : ∀ i : Fin 32, s.rtf.rules[i].enabled = false) (p : DeskPortId) (u : Byte) :
    s.destination p u = { includeFocus := true, fixed := 0 } := by
  have hnone : s.rtf.rules.toList.find? (fun r => r.matchesMake p u s.deskModifiers) = none := by
    rw [List.find?_eq_none]
    intro r hr
    obtain ⟨i, hi, rfl⟩ := List.getElem_of_mem hr
    have := h ⟨i, by simpa using hi⟩
    simp_all [RouteRule.matchesMake]
  rw [State.destination, hnone]

/-- A make with the default destination, from an empty table, with the focus computer CONFIGURED: it is held there, and nobody
else hears of it. -/
theorem State.routeMake_default (p : DeskPortId) (u : Byte) (hheld : s.rtf.held = []) (hkeys : ∀ c : Comp, (s.comp c).keySet = [])
    (hrules : ∀ i : Fin 32, s.rtf.rules[i].enabled = false) (hport : (s.comp s.fcu.focus).port = .configured) :
    s.routeMake p u = { s with
      rtf := { s.rtf with held := [{ port := p, usage := u, focusMember := some s.fcu.focus, fixed := 0 }] }
      cps := s.cps.set s.fcu.focus (({ s.comp s.fcu.focus with keySet := [u] }).takeSnapshot (snapshotOf [u])) } := by
  have hdest := State.destination_default hrules p u
  have hlaw : s.KeySetLaw := fun c => by simp [hkeys c, hheld]
  have haccepting : (s.comp s.fcu.focus).port.accepting = true := by rw [hport]; rfl
  have hentry : s.newEntry p u { includeFocus := true, fixed := 0 } =
      { port := p, usage := u, focusMember := some s.fcu.focus, fixed := 0 } := by
    have hfixed : compSetOf (fun c => inSet 0 c && (s.comp c).port.accepting) = 0 := by
      rw [compSetOf_eq_zero_iff]
      simp [inSet]
    rw [State.newEntry, hfixed, haccepting]
    rfl
  have hnames (c : Comp) : (s.newEntry p u { includeFocus := true, fixed := 0 }).names c = decide (c = s.fcu.focus) := by
    rw [State.newEntry_names_eq, haccepting]
    simp
  have hmembers : s.sleepingMembers (s.newEntry p u { includeFocus := true, fixed := 0 }) = [] := by
    refine List.filter_eq_nil_iff.mpr fun c _ => ?_
    rw [hnames c, Bool.and_eq_true, decide_eq_true_eq]
    rintro ⟨rfl, hasleep⟩
    simp [hport] at hasleep
  obtain ⟨cps, heq, hcps⟩ := State.createEntry_eq hlaw (by simp [hheld]) { includeFocus := true, fixed := 0 } (p := p) (u := u)
  have hset : cps = s.cps.set s.fcu.focus (({ s.comp s.fcu.focus with keySet := [u] }).takeSnapshot (snapshotOf [u])) := by
    refine Vector.ext fun i hi => ?_
    refine (hcps ⟨i, hi⟩).trans ?_
    rw [hnames, Vector.getElem_set, hkeys]
    simp only [decide_eq_true_eq, List.not_mem_nil, not_false_eq_true, and_true, List.nil_append, Fin.ext_iff]
    split
    · next h =>
      have hfocus : (⟨i, hi⟩ : Comp) = s.fcu.focus := Fin.ext h
      rw [if_pos h.symm, hfocus]
    · next h => exact (if_neg (Ne.symm h)).symm
  rw [State.routeMake_of_destination (by rw [hdest]; rfl), hdest, hmembers, heq, hset, hentry, hheld]
  rfl

/-- Settles O18, by the sequencer's state and the time. -/
theorem sequencerDeadlines : Obligations.SequencerDeadlines := by
  unfold Obligations.SequencerDeadlines
  intro t s now idle
  have htap {phase : TapPhase} {d : Time} (h : s.hks.seq = .firstTap phase d) :=
    State.expireTap_waiting (s := s.at t) h
  have hcommand {d : Time} (h : s.hks.seq = .armed d) := State.expireCommand_armed (s := s.at t) h
  refine ⟨fun phase d h hdue => congrArg Host.Outcome.next ((htap h).trans (if_pos hdue)),
    fun d p u h hdue hhold hheld hkeys hrules hport => ?_,
    fun d h hdue => congrArg Host.Outcome.next ((hcommand h).trans (if_pos hdue)), fun hearly => ?_, fun hearly => ?_⟩
  · refine congrArg Host.Outcome.next ((htap h).trans ((if_pos hdue).trans ?_))
    rw [State.releaseHold_eq]
    change List.foldl State.route idle s.hks.hold = _
    rw [hhold]
    exact State.routeMake_default (s := idle) p u hheld hkeys hrules hport
  · refine congrArg Host.Outcome.next ?_
    by_cases h : ∃ phase d, s.hks.seq = .firstTap phase d
    · obtain ⟨phase, d, h⟩ := h
      exact (htap h).trans (if_neg (Nat.not_le.mpr (hearly phase d h)))
    · exact State.expireTap_other (s := s.at t) fun phase d hseq => h ⟨phase, d, hseq⟩
  · refine congrArg Host.Outcome.next ?_
    by_cases h : ∃ d, s.hks.seq = .armed d
    · obtain ⟨d, h⟩ := h
      exact (hcommand h).trans (if_neg (Nat.not_le.mpr (hearly d h)))
    · exact State.expireCommand_other (s := s.at t) fun d hseq => h ⟨d, hseq⟩

end Sys2Proof.Machine
end

section
/-! What follows on an event (R133, R134, R162, R170): where no GLIDE request is made at once, the re-evaluations of screens and LEDs
leave every record but those `State.FollowsOn` names. -/

namespace Sys2Proof.Machine

variable {s t u : State}

/-! ### The look of the layout -/

theorem Lco.sameLook_iff (l l' : Lco) :
    l.SameLook l' ↔ l.SameWritten l' ∧ ∀ r : TileId, l'.tiles[r].map Tile.fixed = l.tiles[r].map Tile.fixed := by
  constructor
  · rintro ⟨heq, hscreens, htiles⟩
    exact ⟨⟨(congrArg Lco.heads heq :), (congrArg Lco.borders heq :), (congrArg Lco.presets heq :),
      (congrArg Lco.lastPreset heq :), fun o => (hscreens o).1, fun o => (hscreens o).2.1, fun o => (hscreens o).2.2.1, fun o => (hscreens o).2.2.2⟩, htiles⟩
  · rintro ⟨h, htiles⟩
    refine ⟨?_, fun o => ⟨h.placed o, h.rect o, h.alwaysOn o, h.background o⟩, htiles⟩
    rw [← h.heads, ← h.borders, ← h.presets, ← h.lastPreset]

theorem Lco.SameLook.refl (l : Lco) : l.SameLook l := (l.sameLook_iff l).mpr ⟨.refl l, fun _ => rfl⟩

theorem Lco.SameLook.trans {a b c : Lco} (h : a.SameLook b) (k : b.SameLook c) : a.SameLook c := by
  rw [Lco.sameLook_iff] at *
  exact ⟨h.1.trans k.1, fun r => (k.2 r).trans (h.2 r)⟩

theorem Lco.SameLayout.look {l l' : Lco} (h : l.SameLayout l') : l.SameLook l' :=
  (l.sameLook_iff l').mpr ⟨h.toSameWritten, h.records⟩

theorem setScreen_sameLook (l : Lco) (scr : ScreenId) {x : Screen} (hplaced : x.placed = l.screens[scr].placed)
    (hrect : x.rect = l.screens[scr].rect) (hon : x.alwaysOn = l.screens[scr].alwaysOn)
    (hback : x.background = l.screens[scr].background) : l.SameLook (l.setScreen scr x) :=
  (l.sameLook_iff _).mpr ⟨setScreen_sameWritten l scr hplaced hrect hon hback, fun _ => rfl⟩

/-! ### Following on, record by record -/

/-- R167: what only a read of its lines and a scan change of a panel. -/
def Panel.fixed (p : Panel) : Fin 4 × Vector ButtonState 8 := (p.address, p.buttons)

/-- `State.FollowsOn`, record by record; and what follows on sets no park and reads no button. -/
structure State.Follows (s t : State) : Prop where
  clock : t.clock = s.clock
  epoch : t.epoch = s.epoch
  waiting : t.pending = s.pending
  diu : t.diu = s.diu
  hks : t.hks = s.hks
  rtf : t.rtf = s.rtf
  cps : t.cps = s.cps
  fcu : t.fcu = { s.fcu with pending := t.fcu.pending, park := t.fcu.park }
  park : s.fcu.park = none → t.fcu.park = none
  ptu : t.ptu = { s.ptu with hitTile := t.ptu.hitTile, hit := t.ptu.hit }
  look : s.lco.SameLook t.lco
  wpc : t.wpc = { s.wpc with power := t.wpc.power }
  scanner : t.psc.scanner = s.psc.scanner
  panels : t.psc.panels.map Panel.fixed = s.psc.panels.map Panel.fixed
  clp : t.clp = { s.clp with outbound := t.clp.outbound, lost := t.clp.lost }
  outbound : s.clp.outbound <+: t.clp.outbound

theorem State.Follows.followsOn (h : s.Follows t) : s.FollowsOn t := by
  have haddresses := congrArg (List.map Prod.fst) h.panels
  simp only [List.map_map] at haddresses
  refine ⟨?_, h.look, h.outbound, haddresses⟩
  rw [← h.clock, ← h.epoch, ← h.waiting, ← h.diu, ← h.hks, ← h.rtf, ← h.cps, ← h.fcu, ← h.ptu, ← h.wpc, ← h.scanner, ← h.clp]

theorem State.Follows.refl (s : State) : s.Follows s :=
  ⟨rfl, rfl, rfl, rfl, rfl, rfl, rfl, rfl, id, rfl, .refl _, rfl, rfl, rfl, rfl, List.prefix_refl _⟩

theorem State.Follows.trans (h : s.Follows t) (k : t.Follows u) : s.Follows u where
  clock := k.clock.trans h.clock
  epoch := k.epoch.trans h.epoch
  waiting := k.waiting.trans h.waiting
  diu := k.diu.trans h.diu
  hks := k.hks.trans h.hks
  rtf := k.rtf.trans h.rtf
  cps := k.cps.trans h.cps
  fcu := k.fcu.trans (by rw [h.fcu])
  park hnone := k.park (h.park hnone)
  ptu := k.ptu.trans (by rw [h.ptu])
  look := h.look.trans k.look
  wpc := k.wpc.trans (by rw [h.wpc])
  scanner := k.scanner.trans h.scanner
  panels := k.panels.trans h.panels
  clp := k.clp.trans (by rw [h.clp])
  outbound := h.outbound.trans k.outbound

theorem State.Follows.dwell (h : s.Follows t) : t.ptu.dwell = s.ptu.dwell := by rw [h.ptu]

theorem State.Follows.comp (h : s.Follows t) (c : Comp) : t.comp c = s.comp c := by simp only [State.comp, h.cps]

/-- Following on, with nothing of the panels changed: what the re-evaluations of the pointer and of the screens do. -/
structure State.Shows (s t : State) : Prop extends State.Follows s t where
  psc : t.psc = s.psc

theorem State.Shows.refl (s : State) : s.Shows s := { State.Follows.refl s with psc := rfl }

theorem State.Shows.trans (h : s.Shows t) (k : t.Shows u) : s.Shows u :=
  { h.toFollows.trans k.toFollows with psc := k.psc.trans h.psc }

/-! ### Operations that follow on -/

theorem State.shows_notify (s : State) (n : Notice) : s.Shows (s.notify n) := by
  refine { State.Shows.refl s with clp := ?_, outbound := s.clp.queueNotice_outbound n }
  change s.clp.queueNotice n = _
  unfold State.notify
  unfold Clp.queueNotice
  split <;> rfl

theorem State.shows_setLco (s : State) {l : Lco} (h : s.lco.SameLook l) : s.Shows (s.setLco l) :=
  { State.Shows.refl s with look := h }

theorem State.parkAfter_none (s : State) (h : s.fcu.park = none) : s.parkAfter = none := by
  rw [State.parkAfter, h]
  exact ite_self _

theorem State.shows_reevaluateCore (s : State) : s.Shows s.reevaluateCore := by
  rw [State.reevaluateCore_eq]
  exact { State.Shows.refl s with fcu := rfl, ptu := rfl, park := s.parkAfter_none }

theorem State.shows_reevaluate (h : s.ptu.dwell ≠ 0) : s.Shows s.reevaluate := by
  rw [State.reevaluate_of_dwell h]
  exact s.shows_reevaluateCore

theorem State.shows_setPower (s : State) (scr : ScreenId) (p : Power) : s.Shows (s.setPower scr p) := by
  refine .trans ?_ (State.shows_notify _ _)
  refine { State.Shows.refl s with look := ?_, wpc := rfl }
  dsimp only
  split
  · exact (s.lco.draw_layout scr none).look
  · exact .refl _

theorem State.shows_leaveStandbyIfLit (s : State) (scr : ScreenId) : s.Shows (s.leaveStandbyIfLit scr) := by
  unfold State.leaveStandbyIfLit
  split
  · exact s.shows_setPower scr .active
  · exact .refl s

theorem State.shows_applyFlip (s : State) (scr : ScreenId) (r : TileId) : s.Shows (s.applyFlip scr r).1 := by
  unfold State.applyFlip
  split
  · next tile htile =>
    split
    · exact (s.shows_setLco (s.lco.setTile_layout r _ _ htile tile.flipped_fixed).look).trans (State.shows_notify _ _)
    · exact .refl s
  · exact .refl s

theorem State.shows_applyFlips (scr : ScreenId) (rs : List TileId) (s : State) : s.Shows (State.applyFlips scr rs s).1 := by
  induction rs generalizing s with
  | nil => exact .refl s
  | cons r rs ih => exact (s.shows_applyFlip scr r).trans (ih _)

theorem State.shows_applyPending (s : State) (scr : ScreenId) (atOnce : Bool) : s.Shows (s.applyPending scr atOnce).1 := by
  unfold State.applyPending
  split
  · exact .refl s
  · refine .trans (s.shows_setLco ?_) (State.shows_notify _ _)
    refine .trans ?_ (Lco.clearFlips_layout _ _).look
    exact setScreen_sameLook s.lco scr rfl rfl rfl rfl

theorem State.shows_applyWaiting (s : State) (scr : ScreenId) (atOnce : Bool) : s.Shows (s.applyWaiting scr atOnce).1 :=
  (s.shows_applyPending scr atOnce).trans (State.shows_applyFlips scr _ _)

/-! ### Following on, where the dwell setting allows it -/

/-- Where the dwell setting meets a condition, an operation follows on: with a dwell setting of 0, one that re-evaluates may not. -/
def State.ShowsIf (D : Nat → Prop) (s t : State) : Prop := D s.ptu.dwell → s.Shows t

theorem State.Shows.always {D : Nat → Prop} (h : s.Shows t) : State.ShowsIf D s t := fun _ => h

theorem State.ShowsIf.trans {D : Nat → Prop} (h : State.ShowsIf D s t) (k : State.ShowsIf D t u) : State.ShowsIf D s u :=
  fun hd => (h hd).trans (k (by rw [(h hd).dwell]; exact hd))

theorem State.shows_reevaluate_if (s : State) : State.ShowsIf (· ≠ 0) s s.reevaluate := fun h => State.shows_reevaluate h

section
variable {D : Nat → Prop}

theorem State.shows_foldl {α : Type} {f : State → α → State} (h : ∀ (s : State) (a : α), State.ShowsIf D s (f s a)) (l : List α)
    (s : State) : State.ShowsIf D s (l.foldl f s) := by
  induction l generalizing s with
  | nil => exact (State.Shows.refl s).always
  | cons a l ih => exact (h s a).trans (ih _)

variable {re : State → State} (hre : ∀ s : State, State.ShowsIf D s (re s))
include hre

theorem State.shows_tellPointer (s : State) (scr : ScreenId) : State.ShowsIf D s (s.tellPointer re scr) := by
  unfold State.tellPointer
  split
  · exact hre s
  · exact (State.Shows.refl s).always

theorem State.shows_applyAtOnce (s : State) (scr : ScreenId) : State.ShowsIf D s (s.applyAtOnce re scr) := by
  have happlied := (s.shows_applyWaiting scr true).always (D := D)
  unfold State.applyAtOnce
  dsimp only
  split
  · exact happlied.trans ((State.shows_leaveStandbyIfLit _ scr).always.trans (State.shows_tellPointer hre _ scr))
  · exact happlied

theorem State.shows_enterStandby (s : State) (scr : ScreenId) (forced : Bool) :
    State.ShowsIf D s (s.enterStandby re scr forced) :=
  (s.shows_setPower scr _).always.trans (State.shows_applyAtOnce hre _ scr)

theorem State.shows_reevaluateScreen (s : State) (scr : ScreenId) : State.ShowsIf D s (s.reevaluateScreen re scr) := by
  have hrefl := (State.Shows.refl s).always (D := D)
  unfold State.reevaluateScreen
  split
  · exact hrefl
  · split
    · split
      · split
        · exact State.shows_enterStandby hre s scr false
        · exact (s.shows_setPower scr _).always
      · exact hrefl
    · split
      · exact hrefl
      · exact (s.shows_setPower scr _).always
    · exact (s.shows_leaveStandbyIfLit scr).always

theorem State.shows_reevaluateScreens (s : State) : State.ShowsIf D s (s.reevaluateScreens re) :=
  State.shows_foldl (State.shows_reevaluateScreen hre) _ _

theorem State.shows_forceStandby (s : State) (scr : ScreenId) : State.ShowsIf D s (s.forceStandby re scr) := by
  unfold State.forceStandby
  split
  · exact (State.Shows.refl s).always
  · exact State.shows_enterStandby hre s scr true
end

theorem State.shows_leaveForced (s : State) (scr : ScreenId) : s.Shows (s.leaveForced scr) := by
  unfold State.leaveForced
  split
  · split
    · exact s.shows_setPower scr _
    · split
      · exact s.shows_setPower scr _
      · exact { State.Shows.refl s with wpc := rfl }
  · exact .refl s

/-! ### The LEDs -/

theorem Psc.modifyPanel_fixed (p : Psc) (n : Nat) {f : Panel → Panel} (h : ∀ q, (f q).fixed = q.fixed) :
    (p.modifyPanel n f).panels.map Panel.fixed = p.panels.map Panel.fixed := by
  refine List.ext_getElem? fun i => ?_
  rw [List.getElem?_map, List.getElem?_map, Psc.modifyPanel, List.getElem?_modify]
  cases p.panels[i]? with
  | none => rfl
  | some q => by_cases hi : n = i <;> simp [hi, h]

theorem Psc.startNext_frame (pattern : Byte) (p : Psc) : (p.startNext pattern).scanner = p.scanner ∧
    (p.startNext pattern).panels.map Panel.fixed = p.panels.map Panel.fixed := by
  unfold Psc.startNext
  split
  · exact ⟨rfl, rfl⟩
  · split
    · exact ⟨rfl, p.modifyPanel_fixed _ fun _ => rfl⟩
    · split <;> exact ⟨rfl, rfl⟩

theorem Psc.markWrites_fixed (pattern : Byte) (p : Psc) :
    (p.markWrites pattern).panels.map Panel.fixed = p.panels.map Panel.fixed := by
  simp only [Psc.markWrites, List.map_map]
  refine List.map_congr_left fun q _ => ?_
  simp only [Function.comp_apply]
  split <;> rfl

theorem State.follows_startBus (s : State) : s.Follows s.startBus := by
  unfold State.startBus
  split
  · obtain ⟨hscanner, hpanels⟩ := s.psc.startNext_frame s.pattern
    exact { State.Follows.refl s with scanner := hscanner, panels := hpanels }
  · exact .refl s

theorem State.follows_deriveLeds (s : State) : s.Follows s.deriveLeds := by
  refine .trans ?_ (State.follows_startBus _)
  exact { State.Follows.refl s with panels := s.psc.markWrites_fixed s.pattern }

/-- Settles O37. -/
theorem followOnsLeaveTheRest : Obligations.FollowOnsLeaveTheRest := by
  unfold Obligations.FollowOnsLeaveTheRest
  intro s hdwell
  have hscreens := State.shows_reevaluateScreens State.shows_reevaluate_if s hdwell
  exact (hscreens.toFollows.trans (State.follows_deriveLeds _)).followsOn

end Sys2Proof.Machine
end

section
/-! The focus change (R58 to R68), step by step, and the guard and dwell deadlines (R70, R71). -/

namespace Sys2Proof.Machine

variable {s t u : State}

/-! ### What a wake leaves (R151) -/

/-- The follow-ons of a wake of one computer leave the key table, the focus record but for dwell and park, the pointer record but for
the hit fields, and every other computer's record. -/
structure State.WokenOnly (c : Comp) (s t : State) : Prop where
  rtf : t.rtf = s.rtf
  fcu : t.fcu = { s.fcu with pending := t.fcu.pending, park := t.fcu.park }
  park : s.fcu.park = none → t.fcu.park = none
  ptu : t.ptu = { s.ptu with hitTile := t.ptu.hitTile, hit := t.ptu.hit }
  comp : ∀ d : Comp, d ≠ c → t.comp d = s.comp d
  panels : t.psc.panels.map Panel.fixed = s.psc.panels.map Panel.fixed

theorem State.WokenOnly.refl (c : Comp) (s : State) : State.WokenOnly c s s := ⟨rfl, rfl, id, rfl, fun _ _ => rfl, rfl⟩

theorem State.WokenOnly.trans {c : Comp} (h : State.WokenOnly c s t) (k : State.WokenOnly c t u) : State.WokenOnly c s u where
  rtf := k.rtf.trans h.rtf
  fcu := k.fcu.trans (by rw [h.fcu])
  park hnone := k.park (h.park hnone)
  ptu := k.ptu.trans (by rw [h.ptu])
  comp d hd := (k.comp d hd).trans (h.comp d hd)
  panels := k.panels.trans h.panels

theorem State.Follows.wokenOnly (h : s.Follows t) (c : Comp) : State.WokenOnly c s t :=
  ⟨h.rtf, h.fcu, h.park, h.ptu, fun d _ => h.comp d, h.panels⟩

section
variable {D : Nat → Prop} {re : State → State} (hre : ∀ s : State, State.ShowsIf D s (re s))
include hre

/-- The desk's going to sleep touches no computer, no key, no focus (R157, R162). -/
theorem State.enterAsleep_wokenOnly (c : Comp) (cause : DeskCause) (hd : D s.ptu.dwell) :
    State.WokenOnly c s (s.enterAsleep re cause) := by
  have hforce := State.shows_foldl (State.shows_forceStandby hre) allScreens
    ((s.setWpc { s.wpc with deskDeadline := none }).setDesk .asleep cause s.wpc.awaited) hd
  have hset : State.WokenOnly c s ((s.setWpc { s.wpc with deskDeadline := none }).setDesk .asleep cause s.wpc.awaited) :=
    ⟨rfl, rfl, id, rfl, fun _ _ => rfl, rfl⟩
  exact hset.trans (hforce.wokenOnly c)

theorem State.completionTest_wokenOnly (c : Comp) (hd : D s.ptu.dwell) : State.WokenOnly c s (s.completionTest re) := by
  unfold State.completionTest
  split
  · exact State.enterAsleep_wokenOnly hre c .allAsleep hd
  · exact .refl c s

omit hre in
theorem State.endAttempt_wokenOnly (c : Comp) (result : WakeEnd) : State.WokenOnly c s (s.endAttempt c result) := by
  unfold State.endAttempt
  split
  · exact ⟨rfl, rfl, id, rfl, fun _ _ => rfl, rfl⟩
  · exact .refl c s

/-- What a change of port state is followed by (R110, R157) touches no key, no focus and no other computer. -/
theorem State.afterChange_wokenOnly (c : Comp) (old new : PortState) (hd : D s.ptu.dwell) :
    State.WokenOnly c s (s.afterChange re c old new) := by
  have htold : State.WokenOnly c s (if old = .resuming
      then (s.notify (.portState c new old (s.comp c).remoteWake)).endAttempt c new.wakeEnd
      else s.notify (.portState c new old (s.comp c).remoteWake)) := by
    have hnotify := (s.shows_notify (.portState c new old (s.comp c).remoteWake)).wokenOnly c
    split
    · exact hnotify.trans (State.endAttempt_wokenOnly c _)
    · exact hnotify
  unfold State.afterChange
  dsimp only
  generalize (if old = .resuming
      then (s.notify (.portState c new old (s.comp c).remoteWake)).endAttempt c new.wakeEnd
      else s.notify (.portState c new old (s.comp c).remoteWake)) = v at htold ⊢
  have hv : D v.ptu.dwell := by rw [htold.ptu]; exact hd
  have hlast {w : State} (hw : D w.ptu.dwell) : State.WokenOnly c w (w.reevaluateScreens re).deriveLeds :=
    ((State.shows_reevaluateScreens hre w hw).toFollows.trans (State.follows_deriveLeds _)).wokenOnly c
  split
  · have htest := State.completionTest_wokenOnly hre c hv
    exact htold.trans (htest.trans (hlast (by rw [htest.ptu]; exact hv)))
  · exact htold.trans (hlast hv)

theorem State.wake_wokenOnly (c : Comp) (cause : WakeCause) (hd : D s.ptu.dwell) : State.WokenOnly c s (s.wake re c cause) := by
  by_cases hport : (s.comp c).port = .suspended
  · cases hpermit : (s.comp c).remoteWake
    · rw [State.wake_refused re cause hport hpermit]
      exact (s.shows_notify _).wokenOnly c
    · rw [State.wake_suspended re cause hport hpermit]
      generalize hv : s.setWpc { s.wpc with
          wakes := s.wpc.wakes.set c (some (WakeAttempt.mk cause s.clock (s.clock + s.wpc.wakeTimeout))) } = v
      have hset : State.WokenOnly c s v := by rw [← hv]; exact ⟨rfl, rfl, id, rfl, fun _ _ => rfl, rfl⟩
      have hport' : (v.comp c).port = .suspended := by rw [← hv]; exact hport
      have henter : State.WokenOnly c v (v.enterPort c .resuming) := by
        rw [enterPort_eq, hport']
        exact ⟨rfl, rfl, id, rfl, fun d hne => State.comp_setComp_other v c d _ hne, rfl⟩
      have hdwell : D (v.enterPort c .resuming).ptu.dwell := by rw [(hset.trans henter).ptu]; exact hd
      rw [State.changePort_differs re (by rw [hport']; nofun)]
      exact hset.trans (henter.trans (State.afterChange_wokenOnly hre c _ _ hdwell))
  · rw [State.wake_other re cause hport]
    exact .refl c s
end

/-! ### The steps of the focus change -/

/-- The record of a computer that has been handed a report with no buttons (R63). -/
def Computer.unbuttoned (r : Computer) : Computer :=
  match r.lastPointer with
  | some p => if p.buttons = 0 then r else r.takePointer { p with buttons := 0 } 0
  | none => r

theorem State.releaseButtons_eq (s : State) (c : Comp) : s.releaseButtons c = s.setComp c (s.comp c).unbuttoned := by
  unfold State.releaseButtons Computer.unbuttoned
  cases (s.comp c).lastPointer with
  | none => exact (State.setComp_self c).symm
  | some p =>
    dsimp only
    split
    · exact (State.setComp_self c).symm
    · rfl

theorem Computer.takePointer_frame (r : Computer) (p : PointerState) (w : Int) : ∃ q l o m,
    r.takePointer p w = { r with queue := q, lastPointer := l, owedPointer := o, merge := m } := by
  unfold Computer.takePointer Computer.placePointer
  split
  · exact ⟨_, _, _, _, rfl⟩
  · split
    · exact ⟨_, _, _, _, rfl⟩
    · split
      · exact ⟨_, _, _, _, rfl⟩
      · split <;> exact ⟨_, _, _, _, rfl⟩

theorem Computer.unbuttoned_frame (r : Computer) : ∃ q l o m,
    r.unbuttoned = { r with queue := q, lastPointer := l, owedPointer := o, merge := m } := by
  unfold Computer.unbuttoned
  split
  · split
    · exact ⟨_, _, _, _, rfl⟩
    · exact r.takePointer_frame _ 0
  · exact ⟨_, _, _, _, rfl⟩

/-- R51: the table with a computer that is focus member of no entry. -/
def unfocused (f : Comp) (held : List HeldKey) : List HeldKey :=
  held.map (fun k => if k.focusMember = some f then { k with focusMember := none } else k)

theorem unfocused_member (f : Comp) (held : List HeldKey) : ∀ k ∈ unfocused f held, k.focusMember ≠ some f := by
  intro k hk
  obtain ⟨j, -, rfl⟩ := List.mem_map.mp hk
  split
  · nofun
  · assumption

/-- R51, R63: the record of the outgoing computer. -/
def Computer.released (held : List HeldKey) (f : Comp) (r : Computer) : Computer := r.unbuttoned.refreshed held f

theorem Computer.released_extents (held : List HeldKey) (f : Comp) (r : Computer) :
    (r.released held f).dw = r.dw ∧ (r.released held f).dh = r.dh := by
  obtain ⟨q, l, o, m, hunbuttoned⟩ := r.unbuttoned_frame
  obtain ⟨q', l', o', m', hrefreshed, -, -⟩ := Computer.refreshed_frame held f r.unbuttoned
  rw [Computer.released, hrefreshed, hunbuttoned]
  exact ⟨rfl, rfl⟩

theorem unfocused_names {f c : Comp} {held : List HeldKey} {v : Byte} (h : ∃ k ∈ unfocused f held, k.usage = v ∧ k.names c = true) :
    ∃ k ∈ held, k.usage = v ∧ k.names c = true := by
  obtain ⟨k, hk, husage, hnames⟩ := h
  obtain ⟨j, hj, rfl⟩ := List.mem_map.mp hk
  refine ⟨j, hj, ?_⟩
  split at husage
  · next hfocus =>
    rw [if_pos hfocus] at hnames
    exact ⟨husage, by simp_all [HeldKey.names]⟩
  · next hfocus =>
    rw [if_neg hfocus] at hnames
    exact ⟨husage, hnames⟩

/-- R48, R51, R63: the outgoing computer keeps the keys that the table still holds on it. -/
theorem Computer.released_eq (hlaw : s.KeySetLaw) (f : Comp) :
    let keys := (s.comp f).keySet.filter (holdsUsage (unfocused f s.rtf.held) f)
    (s.comp f).released (unfocused f s.rtf.held) f = if keys = (s.comp f).keySet then (s.comp f).unbuttoned
      else ({ (s.comp f).unbuttoned with keySet := keys }).takeSnapshot (snapshotOf keys) := by
  intro keys
  obtain ⟨q, l, o, m, hunbuttoned⟩ := (s.comp f).unbuttoned_frame
  have hkeyset : (s.comp f).unbuttoned.keySet = (s.comp f).keySet := by rw [hunbuttoned]
  have hkeys : nextKeySet (unfocused f s.rtf.held) f (s.comp f).keySet = keys :=
    nextKeySet_of_none_joins fun v hv => ((hlaw f).2 v).mpr (unfocused_names hv)
  rw [Computer.released, Computer.refreshed, hkeyset, hkeys]

/-- R51, R63: the first two steps of a focus change. -/
theorem State.release_eq (s : State) (f : Comp) : (s.releaseButtons f).markStale.releaseKeys f = { s with
    cps := s.cps.set f ((s.comp f).released (unfocused f s.rtf.held) f)
    rtf := { s.rtf with held := unfocused f s.rtf.held }
    ptu := s.markStale.ptu } := by
  rw [State.releaseKeys, State.refreshKeys_setComp, State.releaseButtons_eq]
  have hcomp : (((s.setComp f (s.comp f).unbuttoned).markStale).setRtf { s.rtf with held := unfocused f s.rtf.held }).comp f =
    (s.comp f).unbuttoned := State.comp_setComp_same _ f _
  change ((((s.setComp f (s.comp f).unbuttoned).markStale).setRtf { s.rtf with held := unfocused f s.rtf.held }).setComp f
    (((((s.setComp f (s.comp f).unbuttoned).markStale).setRtf { s.rtf with held := unfocused f s.rtf.held }).comp f).refreshed
      (unfocused f s.rtf.held) f)) = _
  rw [hcomp]
  simp only [State.setComp, State.setRtf, State.markStale, State.setPtu, Vector.set_set, Computer.released]

/-- R65: the pointer record that a change's warp leaves. -/
def State.warpedPtu (s : State) (c : Comp) (cause : FocusCause) : Ptu :=
  match s.warpPlace c with
  | some (x, y) => if cause = .glide then s.ptu else { s.ptu with px := x, py := y, fx := 0, fy := 0 }
  | none => s.ptu

/-- R65, R66: step four. -/
theorem State.warpAndPark_eq (s : State) (c : Comp) (cause : FocusCause) :
    let hit := { s with ptu := s.warpedPtu c cause }.hitTest
    s.warpAndPark c cause = { s with
      ptu := { s.warpedPtu c cause with hitTile := hit.1, hit := hit.2 }
      fcu := { s.fcu with park := if cause = .glide ∨ hit.2.map Hit.target = some c then s.fcu.park else some hit.1 } } := by
  intro hit
  unfold State.warpAndPark
  by_cases hglide : cause = .glide
  · have hptu : s.warpedPtu c cause = s.ptu := by
      unfold State.warpedPtu
      split
      · exact if_pos hglide
      · rfl
    rw [if_pos hglide, if_pos (.inl hglide), hptu]
    simp only [hit, hptu]
    rfl
  · have hwarp : s.warp c = { s with ptu := s.warpedPtu c cause } := by
      unfold State.warp State.warpedPtu
      cases s.warpPlace c with
      | none => rfl
      | some place =>
        simp only [if_neg hglide]
        rfl
    rw [if_neg hglide, hwarp]
    have hcomputer : State.hitComputer (State.makeHitTest { s with ptu := s.warpedPtu c cause }) = hit.2.map Hit.target := rfl
    dsimp only
    rw [hcomputer]
    by_cases hunder : hit.2.map Hit.target = some c
    · rw [if_pos hunder, if_pos (.inr hunder)]
      rfl
    · rw [if_neg hunder, if_neg (not_or.mpr ⟨hglide, hunder⟩)]
      rfl

/-- R68: the pending target after step six, at which no dwell starts. -/
def State.pendingNoStart (s : State) : Option Pending :=
  match s.hitTest.2 with
  | some hit =>
    if hit.target ≠ s.fcu.focus ∧ s.fcu.lock = .none ∧ s.fcu.guard = none ∧ s.parkAfter = none ∧
        s.fcu.pending.map Pending.target = some hit.target then s.fcu.pending else none
  | none => none

/-- R68: step six. -/
theorem State.arrive_eq (s : State) (c : Comp) : s.arrive c = { s with
    ptu := { s.ptu with hitTile := s.hitTest.1, hit := s.hitTest.2 }
    fcu := { s.fcu with park := s.parkAfter, pending := s.pendingNoStart }
    cps := match s.hitTest.2 with
      | some hit => if hit.target = c then
          s.cps.set c ((s.comp c).takePointer { buttons := 0, ax := hit.ax, ay := hit.ay } 0) else s.cps
      | none => s.cps } := by
  have hstart : s.makeHitTest.clearPark = { s with
      ptu := { s.ptu with hitTile := s.hitTest.1, hit := s.hitTest.2 }, fcu := { s.fcu with park := s.parkAfter } } :=
    State.clearPark_eq s.makeHitTest
  have htarget := State.dwellTarget_eq s.makeHitTest.clearPark
  have hdecided : s.makeHitTest.clearPark.glideDecisionNoStart = { s with
      ptu := { s.ptu with hitTile := s.hitTest.1, hit := s.hitTest.2 }
      fcu := { s.fcu with park := s.parkAfter, pending := s.pendingNoStart } } := by
    unfold State.glideDecisionNoStart
    rw [htarget, hstart, State.pendingNoStart]
    cases hhit : s.hitTest.2 with
    | none => rfl
    | some hit =>
      dsimp only
      by_cases hrun : hit.target ≠ s.fcu.focus ∧ s.fcu.lock = .none ∧ s.fcu.guard = none ∧ s.parkAfter = none
      · rw [if_pos hrun]
        dsimp only
        by_cases hsame : s.fcu.pending.map Pending.target = some hit.target
        · rw [if_pos hsame, if_pos ⟨hrun.1, hrun.2.1, hrun.2.2.1, hrun.2.2.2, hsame⟩]
        · rw [if_neg hsame, if_neg fun h => hsame h.2.2.2.2]
          rfl
      · rw [if_neg hrun, if_neg fun h => hrun ⟨h.1, h.2.1, h.2.2.1, h.2.2.2.1⟩]
        rfl
  unfold State.arrive
  rw [hdecided]
  dsimp only
  cases s.hitTest.2 with
  | none => rfl
  | some hit =>
    dsimp only
    split <;> rfl

/-! ### The whole change -/

/-- The hit test reads the layout, the pointer's place, and the extents of the computers' desktops. -/
theorem hitTest_congr (hlco : t.lco = s.lco) (hx : t.ptu.px = s.ptu.px) (hy : t.ptu.py = s.ptu.py)
    (hextents : ∀ c : Comp, (t.comp c).dw = (s.comp c).dw ∧ (t.comp c).dh = (s.comp c).dh) : t.hitTest = s.hitTest := by
  have hhead (rect : Rect) (view : View) (h : HeadId) (lx ly : Nat) : t.hitHead rect view h lx ly = s.hitHead rect view h lx ly := by
    simp only [State.hitHead, hlco, hextents]
  have htile (tile : Tile) (lx ly : Nat) : t.hitTile tile lx ly = s.hitTile tile lx ly := by
    simp only [State.hitTile, hhead]
  simp only [State.hitTest, State.pointerScreen, hlco, hx, hy, htile]

theorem warpPlace_congr (hlco : t.lco = s.lco) (c : Comp) : t.warpPlace c = s.warpPlace c := by
  simp only [State.warpPlace, State.placeOn, hlco]

/-- The state after steps one to four of a change (R63 to R66), for the focus record's lock as it stands. -/
def State.written (s : State) (c : Comp) (cause : FocusCause) : State :=
  let hit := { s with ptu := { s with ptu := s.markStale.ptu }.warpedPtu c cause }.hitTest
  { s with
    cps := s.cps.set s.fcu.focus ((s.comp s.fcu.focus).released (unfocused s.fcu.focus s.rtf.held) s.fcu.focus)
    rtf := { s.rtf with held := unfocused s.fcu.focus s.rtf.held }
    ptu := { { s with ptu := s.markStale.ptu }.warpedPtu c cause with hitTile := hit.1, hit := hit.2 }
    fcu := {
      focus := c, lock := s.fcu.lock, pending := none, lastCause := cause
      guard := if s.ptu.guard = 0 then none else some (s.clock + s.ptu.guard)
      park := if cause = .glide ∨ hit.2.map Hit.target = some c then none else some hit.1 } }

theorem State.written_eq (s : State) (c : Comp) (cause : FocusCause) :
    ((((s.releaseButtons s.fcu.focus).markStale).releaseKeys s.fcu.focus).writeFocus c cause).warpAndPark c cause =
      s.written c cause := by
  rw [State.release_eq, State.warpAndPark_eq]
  generalize hv : State.writeFocus c cause { s with
    cps := s.cps.set s.fcu.focus ((s.comp s.fcu.focus).released (unfocused s.fcu.focus s.rtf.held) s.fcu.focus)
    rtf := { s.rtf with held := unfocused s.fcu.focus s.rtf.held }
    ptu := s.markStale.ptu } = v
  have hextents (d : Comp) : (v.comp d).dw = (s.comp d).dw ∧ (v.comp d).dh = (s.comp d).dh := by
    have hcomp : v.comp d = if d = s.fcu.focus then
        (s.comp s.fcu.focus).released (unfocused s.fcu.focus s.rtf.held) s.fcu.focus else s.comp d := by
      rw [← hv]
      exact State.comp_setComp s s.fcu.focus d _
    rw [hcomp]
    split
    · next h => rw [h]; exact Computer.released_extents _ _ _
    · exact ⟨rfl, rfl⟩
  have hlco : v.lco = s.lco := by rw [← hv]; rfl
  have hptu : v.warpedPtu c cause = { s with ptu := s.markStale.ptu }.warpedPtu c cause := by
    rw [State.warpedPtu, State.warpedPtu, warpPlace_congr hlco, warpPlace_congr (t := { s with ptu := s.markStale.ptu }) (s := s) rfl,
      ← hv]
    rfl
  have hhit : { v with ptu := v.warpedPtu c cause }.hitTest =
      { s with ptu := { s with ptu := s.markStale.ptu }.warpedPtu c cause }.hitTest :=
    hitTest_congr hlco (congrArg Ptu.px hptu) (congrArg Ptu.py hptu) hextents
  dsimp only
  rw [hhit, hptu, ← hv]
  unfold State.written
  rfl

/-- R67: the fifth step. -/
def State.wokenFor (s : State) (c : Comp) : State :=
  if (s.comp c).port = .suspended ∧ (s.comp c).wakeOnFocus then s.wake State.reevaluateCore c .focus else s

theorem State.wokenFor_wokenOnly (s : State) (c : Comp) : State.WokenOnly c s (s.wokenFor c) := by
  unfold State.wokenFor
  split
  · exact State.wake_wokenOnly (D := fun _ => True) (fun v => v.shows_reevaluateCore.always) c .focus trivial
  · exact .refl c s

/-- Steps six and seven (R68). -/
def State.arrived (s : State) (c previous : Comp) (cause : FocusCause) : State :=
  { s with
    ptu := { s.ptu with hitTile := s.hitTest.1, hit := s.hitTest.2 }
    fcu := { s.fcu with park := s.parkAfter, pending := s.pendingNoStart }
    cps := match s.hitTest.2 with
      | some hit => if hit.target = c then
          s.cps.set c ((s.comp c).takePointer { buttons := 0, ax := hit.ax, ay := hit.ay } 0) else s.cps
      | none => s.cps
    clp := s.clp.queueNotice (.focus s.fcu.focus previous cause.code s.fcu.lock s.parkAfter.isSome) }

theorem State.changeFocus_eq (s : State) (c : Comp) (cause : FocusCause) :
    s.changeFocus c cause = (((s.written c cause).wokenFor c).arrived c s.fcu.focus cause).deriveLeds := by
  unfold State.changeFocus
  dsimp only
  rw [State.written_eq, State.arrive_eq]
  rfl

/-! ### Requests -/

theorem Fcu.judge_eq_done {f : Fcu} {c : Comp} {cause : FocusCause} {forced : Bool} (hne : f.focus ≠ c)
    (hglide : cause = .glide → f.pending.map Pending.target = some c) (hlock : f.lock ≠ .hard ∨ forced = true) :
    f.judge c cause forced = .done := by
  unfold Fcu.judge
  rw [if_neg fun h => h.2 (hglide h.1), if_neg hne, if_neg fun h => hlock.elim (fun hl => hl h.1) h.2]

/-- R75: the lock that a granted request leaves. -/
def State.grantedLock (s : State) : Lock := if s.fcu.lock = .hard then s.lockOnLeavingHard else s.fcu.lock

/-- R59, R62: with a dwell setting other than 0 a granted request is its focus change. -/
theorem State.requestFocus_done {c : Comp} {cause : FocusCause} {forced : Bool} (hdone : s.fcu.judge c cause forced = .done)
    (hdwell : s.ptu.dwell ≠ 0) :
    s.requestFocus c cause forced = (s.setFcu { s.fcu with lock := s.grantedLock }).changeFocus c cause := by
  have hgrant : s.grant c cause forced = (s.setFcu { s.fcu with lock := s.grantedLock }).changeFocus c cause := by
    simp only [State.grant, hdone, State.grantedLock]
    split <;> rfl
  have hkept : (s.grant c cause forced).ptu.dwell = s.ptu.dwell := by
    rw [hgrant]
    refine (Moves.kept (State.changeFocus_moves c cause ?_)).dwell
    simp only [State.setFcu_fcu, State.grantedLock]
    split
    · exact s.lockOnLeavingHard_ne
    · assumption
  simp only [State.requestFocus, hdone]
  unfold State.takeDeferredGlide
  split
  · rw [if_neg (by rw [hkept]; exact hdwell), hgrant]
  · exact hgrant

theorem State.requestFocus_unlocked {c : Comp} {cause : FocusCause} {forced : Bool} (hdone : s.fcu.judge c cause forced = .done)
    (hlock : s.fcu.lock ≠ .hard) (hdwell : s.ptu.dwell ≠ 0) : s.requestFocus c cause forced = s.changeFocus c cause := by
  have hsame : s.setFcu { s.fcu with lock := s.grantedLock } = s := by
    rw [State.grantedLock, if_neg hlock]
    rfl
  rw [State.requestFocus_done hdone hdwell, hsame]

/-- What a focus change leaves where, whatever wakes and re-evaluations it brings on. -/
structure State.FocusChanged (c : Comp) (cause : FocusCause) (s t : State) : Prop where
  rtf : t.rtf = { s.rtf with held := unfocused s.fcu.focus s.rtf.held }
  fcu : t.fcu = { focus := c, lock := s.fcu.lock, pending := t.fcu.pending, guard := (s.written c cause).fcu.guard,
                  park := t.fcu.park, lastCause := cause }
  park : (s.written c cause).fcu.park = none → t.fcu.park = none
  ptu : t.ptu = { { s with ptu := s.markStale.ptu }.warpedPtu c cause with hitTile := t.ptu.hitTile, hit := t.ptu.hit }
  comp : ∀ d : Comp, d ≠ s.fcu.focus → d ≠ c → t.comp d = s.comp d
  panels : t.psc.panels.map Panel.fixed = s.psc.panels.map Panel.fixed
  layout : ¬ ((s.comp c).port = .suspended ∧ (s.comp c).wakeOnFocus = true) → s.fcu.focus ≠ c → t.lco = s.lco ∧ t.wpc = s.wpc

theorem State.warpedPtu_stale (s : State) (c : Comp) (cause : FocusCause) : (s.warpedPtu c cause).stale = s.ptu.stale := by
  unfold State.warpedPtu
  split
  · split <;> rfl
  · rfl

theorem State.comp_written (s : State) (c : Comp) (cause : FocusCause) {d : Comp} (hd : d ≠ s.fcu.focus) :
    (s.written c cause).comp d = s.comp d := State.comp_setComp_other s s.fcu.focus d _ hd

theorem State.comp_arrived (s : State) (c previous : Comp) (cause : FocusCause) {d : Comp} (hd : d ≠ c) :
    (s.arrived c previous cause).comp d = s.comp d := by
  unfold State.arrived State.comp
  cases s.hitTest.2 with
  | none => rfl
  | some hit =>
    by_cases hunder : hit.target = c
    · simp only [hunder, if_true]
      exact State.comp_setComp_other s c d _ hd
    · simp only [hunder, if_false]

theorem State.changeFocus_changed (s : State) (c : Comp) (cause : FocusCause) :
    State.FocusChanged c cause s (s.changeFocus c cause) := by
  rw [State.changeFocus_eq]
  have hwoken := State.wokenFor_wokenOnly (s.written c cause) c
  obtain ⟨psc, hleds⟩ := State.deriveLeds_eq (((s.written c cause).wokenFor c).arrived c s.fcu.focus cause)
  have hpanels := (State.follows_deriveLeds (((s.written c cause).wokenFor c).arrived c s.fcu.focus cause)).panels
  rw [hleds] at hpanels ⊢
  generalize hw : (s.written c cause).wokenFor c = w at hwoken hpanels ⊢
  refine ⟨hwoken.rtf, ?_, fun h => w.parkAfter_none (hwoken.park h), ?_, fun d hne hnc => ?_, hpanels.trans hwoken.panels,
    fun hasleep hne => ?_⟩
  · change { w.fcu with park := w.parkAfter, pending := w.pendingNoStart } = _
    rw [hwoken.fcu]
    rfl
  · change { w.ptu with hitTile := w.hitTest.1, hit := w.hitTest.2 } = _
    rw [hwoken.ptu]
    rfl
  · rw [← State.comp_written s c cause hne, ← hwoken.comp d hnc]
    exact w.comp_arrived c s.fcu.focus cause hnc
  · have hcomp := State.comp_written s c cause (Ne.symm hne)
    have hsame : w = s.written c cause := by
      rw [← hw, State.wokenFor, hcomp]
      exact if_neg hasleep
    rw [hsame]
    exact ⟨rfl, rfl⟩

/-! ### The deadlines of focus -/

theorem State.expireGuard_some {d : Time} (h : s.fcu.guard = some d) :
    s.expireGuard = if d ≤ s.clock then (s.setFcu { s.fcu with guard := none }).reevaluate else s := by
  simp only [State.expireGuard, h, State.due, decide_eq_true_eq]

theorem State.expireDwell_some {p : Pending} (h : s.fcu.pending = some p) :
    s.expireDwell = if p.deadline ≤ s.clock then s.takeGlide p.target else s := by
  simp only [State.expireDwell, h, State.due, decide_eq_true_eq]

/-- Settles O24. The dwell deadline's request is granted, for a pending target is a lawful one. -/
theorem guardAndDwellDeadlines : Obligations.GuardAndDwellDeadlines := by
  unfold Obligations.GuardAndDwellDeadlines
  intro t s now
  refine ⟨fun d h => congrArg Host.Outcome.next (State.expireGuard_some (s := s.at t) h), fun h => ?_, fun h => ?_, fun p hp =>
    ⟨fun hearly => ?_, fun hdue hlaw hdwell => ?_⟩⟩
  · exact congrArg Host.Outcome.next (show (s.at t).expireGuard = s.at t by simp only [State.expireGuard, State.at_fcu, h])
  · exact congrArg Host.Outcome.next (show (s.at t).expireDwell = s.at t by simp only [State.expireDwell, State.at_fcu, h])
  · exact congrArg Host.Outcome.next ((State.expireDwell_some (s := s.at t) hp).trans (if_neg (Nat.not_le.mpr hearly)))
  · obtain ⟨hlock, hguard, hpark, hne⟩ := hlaw p hp
    have hdone : (s.at t).fcu.judge p.target .glide false = .done :=
      Fcu.judge_eq_done (Ne.symm hne) (fun _ => by rw [State.at_fcu, hp]; rfl) (.inl (by rw [State.at_fcu, hlock]; nofun))
    have hexpire : (s.at t).expireDwell = (s.at t).changeFocus p.target .glide := by
      rw [State.expireDwell_some (s := s.at t) hp]
      refine (if_pos hdue).trans ?_
      simp only [State.takeGlide, hdone]
      exact State.requestFocus_unlocked hdone (by rw [State.at_fcu, hlock]; nofun) hdwell
    have hkept := Moves.kept (State.expireDwell_moves (s := s.at t))
    have hchanged := State.changeFocus_changed (s.at t) p.target .glide
    rw [← hexpire] at hchanged
    have hwarped : State.warpedPtu { s.at t with ptu := (s.at t).markStale.ptu } p.target .glide = (s.at t).markStale.ptu := by
      unfold State.warpedPtu
      split
      · exact if_pos rfl
      · rfl
    have hptu := hchanged.ptu
    rw [hwarped] at hptu
    refine ⟨(s.at t).expireDwell, rfl, ?_, ?_, ?_, hchanged.park rfl, ?_, ?_, ?_, ?_, ?_, ?_, hkept.diu, hkept.hks, hkept.rules,
      hkept.inbound, hchanged.comp⟩
    · rw [hchanged.fcu]
    · rw [hchanged.fcu]
    · rw [hchanged.fcu]; exact hlock
    · rw [hchanged.fcu]; rfl
    · rw [hptu]; rfl
    · rw [hptu]; rfl
    · rw [hptu]; rfl
    · rw [hptu]; rfl
    · rw [hchanged.rtf]
      exact unfocused_member _ _

/-! ### SET FOCUS -/

theorem State.markStale_stale (s : State) (p : DeskPortId) : s.markStale.ptu.stale[p] = s.ptu.stale[p] ||| s.diu[p].held :=
  match p with
  | 0 => rfl
  | 1 => rfl
  | 2 => rfl
  | 3 => rfl

theorem requestSetFocus_bytes (c : Comp) (forced : Bool) (s : State) :
    requestSetFocus [byte c.val, flagByte forced] s = s.hostFocus c forced := by
  have hc : index 8 (at8 [byte c.val, flagByte forced] 0) = some c := index_byte (by decide) c
  have hforced : flag (at8 [byte c.val, flagByte forced] 1) = some forced := flag_flagByte forced
  rw [requestSetFocus, if_neg (by simp), hc, hforced]

theorem Fcu.judge_ignored {f : Fcu} {c : Comp} (h : f.focus = c) (forced : Bool) : f.judge c .host forced = .ignored := by
  unfold Fcu.judge
  rw [if_neg (fun hboth => nomatch hboth.1), if_pos h]

theorem Fcu.judge_locked {f : Fcu} {c : Comp} (h : f.focus ≠ c) (hlock : f.lock = .hard) : f.judge c .host false = .refusedLocked := by
  unfold Fcu.judge
  rw [if_neg (fun hboth => nomatch hboth.1), if_neg h, if_pos ⟨hlock, by decide⟩]

/-- Settles O22: the request by the judging, and a granted request of any cause by the equation of the change. -/
theorem setFocusIsJudged : Obligations.SetFocusIsJudged := by
  unfold Obligations.SetFocusIsJudged
  refine ⟨fun t s tag rest c forced hasks => ?request, fun s c cause forced hne hglide hlock hdwell hlaw => ?steps⟩
  case request =>
    intro f lock
    have howner := requestSetFocus_bytes c forced (s.at t)
    refine ⟨fun h => ?_, fun hne hhard hforced => ?_, fun hne hgrant hdwell => ?_⟩
    · refine requestSetFocus_keeps.exec_asks hasks (rep := .okWith (s.fcu.focusBytes false)) (howner.trans ?_)
      simp only [State.hostFocus, Fcu.judge_ignored (f := (s.at t).fcu) h forced]
      rfl
    · refine requestSetFocus_keeps.exec_asks hasks (rep := { status := .locked, data := s.fcu.focusBytes false }) (howner.trans ?_)
        (hdata := ?_)
      · simp only [State.hostFocus, hforced, Fcu.judge_locked (f := (s.at t).fcu) hne hhard]
        rfl
      · simp only [Fcu.focusBytes, hhard]
        rfl
    · have hdone : (s.at t).fcu.judge c .host forced = .done := Fcu.judge_eq_done hne nofun hgrant
      let unlocked := (s.at t).setFcu { s.fcu with lock := lock }
      have hrequest : (s.at t).requestFocus c .host forced = unlocked.changeFocus c .host := State.requestFocus_done hdone hdwell
      have hchanged := State.changeFocus_changed unlocked c .host
      have hunlocked : unlocked.fcu.lock ≠ .hard := by
        simp only [unlocked, State.setFcu_fcu, lock]
        split
        · exact s.lockOnLeavingHard_ne
        · assumption
      have hkept := Moves.kept (State.changeFocus_moves (A := []) c .host hunlocked)
      rw [← hrequest] at hchanged hkept
      have hbytes : ((s.at t).requestFocus c .host forced).fcu.focusBytes true = [byte c.val, lock.code, 1] := by
        rw [hchanged.fcu]
        rfl
      have hexec : exec (.setFocus t) s =
          .next (((s.at t).requestFocus c .host forced).answered 0x10 tag rest [0, byte c.val, lock.code, 1]) := by
        refine requestSetFocus_keeps.exec_asks hasks (rep := .okWith [byte c.val, lock.code, 1]) (howner.trans ?_)
        simp only [State.hostFocus, hdone, hbytes]
      obtain ⟨q, hq⟩ := hkept.outbound
      refine ⟨_, hexec, rfl, ?_, ?_, ?_, ?_, ?_, ?_, rfl, ⟨q, ?_⟩, hkept.diu, hkept.hks, hkept.rules, hchanged.comp,
        fun hasleep => hchanged.layout hasleep hne⟩
      · exact (congrArg Fcu.focus hchanged.fcu :)
      · exact (congrArg Fcu.lastCause hchanged.fcu :)
      · exact (congrArg Fcu.lock hchanged.fcu :)
      · exact (congrArg Fcu.guard hchanged.fcu :)
      · change ∀ k ∈ ((s.at t).requestFocus c .host forced).rtf.held, _
        rw [hchanged.rtf]
        exact unfocused_member _ _
      · intro p
        have hstale := (congrArg Ptu.stale hchanged.ptu :)
        change ((s.at t).requestFocus c .host forced).ptu.stale[p] = _
        rw [hstale]
        exact ((congrArg (fun v : Vector Buttons 4 => v[p]) (State.warpedPtu_stale _ c .host)).trans (unlocked.markStale_stale p))
      · change ((s.at t).requestFocus c .host forced).clp.outbound ++ _ = _
        rw [← hq]
        rfl
  case steps =>
    intro f lock unbuttoned held keys released
    have hdone := Fcu.judge_eq_done hne hglide hlock
    refine ⟨s.markStale.ptu.stale, s.markStale_stale, ?_⟩
    intro marked warped hit written woken under park
    let unlocked := s.setFcu { s.fcu with lock := s.grantedLock }
    have hreleased : (s.comp f).released (unfocused f s.rtf.held) f = released := Computer.released_eq hlaw f
    have hwarped : State.warpedPtu { unlocked with ptu := unlocked.markStale.ptu } c cause = warped := by
      rw [State.warpedPtu, warpPlace_congr (s := s) (t := { unlocked with ptu := unlocked.markStale.ptu }) rfl]
      rfl
    have hhit : { unlocked with ptu := warped }.hitTest = hit := hitTest_congr rfl rfl rfl fun _ => ⟨rfl, rfl⟩
    have hwritten : unlocked.written c cause = written := by
      unfold State.written
      dsimp only
      rw [hwarped, hhit]
      change { unlocked with
        cps := s.cps.set f ((s.comp f).released (unfocused f s.rtf.held) f)
        rtf := _, ptu := _, fcu := _ } = written
      rw [hreleased]
      rfl
    have hcomp : written.comp c = s.comp c := State.comp_setComp_other s f c released (Ne.symm hne)
    have hwoken : written.wokenFor c = woken := by
      rw [State.wokenFor, hcomp]
    have hframe : State.WokenOnly c written woken := by
      rw [← hwoken]
      exact State.wokenFor_wokenOnly written c
    have hfocus : woken.fcu.focus = c := by rw [hframe.fcu]
    have hlocked : woken.fcu.lock = lock := by rw [hframe.fcu]
    rw [State.requestFocus_done hdone hdwell, State.changeFocus_eq, hwritten, hwoken]
    refine congrArg State.deriveLeds ?_
    unfold State.arrived State.pendingNoStart
    rw [hfocus, hlocked]
    cases cause <;> rfl

end Sys2Proof.Machine
end

section
/-! Movements (R82, R83, R88, R92): the pointer's place, the report they make, and the placed screens they keep to. -/

namespace Sys2Proof.Machine

variable {s t u : State}

/-! ### A report that is one movement -/

/-- R9: a report with the buttons held and a movement makes the motion event alone. -/
theorem State.pointerReport_motion {p : DeskPortId} {b bx bY : Byte} (hport : s.diu[p] = .pointer (b.setWidth 5))
    (hmoves : ¬ (bx = 0 ∧ bY = 0)) : s.pointerReport p [b, bx, bY] = s.handOn (.motion p (deskCount bx) (deskCount bY)) := by
  have hreduce : reduceMove [b, bx, bY] =
      some { buttons := b.setWidth 5, dx := deskCount bx, dy := deskCount bY, wheel := 0 } := rfl
  have hcounts : ¬ (deskCount bx = 0 ∧ deskCount bY = 0) := fun h =>
    hmoves ⟨by_contra fun hx => deskCount_ne_zero hx h.1, by_contra fun hy => deskCount_ne_zero hy h.2⟩
  unfold State.pointerReport
  rw [hport, hreduce]
  simp only [State.takeMoveReport, if_neg hcounts, buttonList_unchanged, List.foldl_nil, if_true]

theorem State.takeMotion_eq (s : State) (dx dy : Int) : s.takeMotion dx dy =
    if (s.setPtu (s.moved dx dy)).hitTest.2.map Hit.target = some s.fcu.focus
    then (s.setPtu (s.moved dx dy)).reevaluate.motionReport else (s.setPtu (s.moved dx dy)).reevaluate := rfl

/-- Over the focus computer dwell ends, whatever the dwell setting (R89). -/
theorem State.reevaluate_over_focus {hit : Hit} (h : s.hitTest.2 = some hit) (hfocus : hit.target = s.fcu.focus) :
    s.reevaluate = { s with
      ptu := { s.ptu with hitTile := s.hitTest.1, hit := some hit }
      fcu := { s.fcu with park := s.parkAfter, pending := none } } := by
  have hnone : s.pendingAfter = none := by
    rw [State.pendingAfter, h]
    exact if_neg fun hrun => hrun.1 hfocus
  have hcore : s.reevaluate = s.reevaluateCore := by
    by_cases hdwell : s.ptu.dwell = 0
    · rw [State.reevaluate_of_zero hdwell, hnone]
    · exact State.reevaluate_of_dwell hdwell
  rw [hcore, State.reevaluateCore_eq, hnone, h]

/-- Settles O30, by the hit test at the pointer's new place. -/
theorem motionReportsToTheFocusComputer : Obligations.MotionReportsToTheFocusComputer := by
  unfold Obligations.MotionReportsToTheFocusComputer
  intro t p b bx bY s hport hawake hmoves f there
  have hexec : exec (.pointerReport t p [b, bx, bY]) s = .next ((s.at t).takeMotion (deskCount bx) (deskCount bY)) := by
    refine congrArg Host.Outcome.next ((State.pointerReport_motion (s := s.at t) hport hmoves).trans ?_)
    have hdesk : (s.at t).wpc.desk = .awake := hawake
    simp only [State.handOn, State.gate, hdesk]
    rfl
  have hmotion : (s.at t).takeMotion (deskCount bx) (deskCount bY) =
      if there.hitTest.2.map Hit.target = some f then there.reevaluate.motionReport else there.reevaluate := rfl
  rw [hexec, hmotion]
  refine ⟨fun hit hhit hfocus => ?_, fun h => ?_⟩
  · rw [if_pos (by rw [hhit, ← hfocus]; rfl), State.reevaluate_over_focus hhit hfocus]
    simp only [State.motionReport]
    rw [if_pos (show hit.target = there.fcu.focus from hfocus)]
    rfl
  · rw [if_neg]
    intro htarget
    obtain ⟨hit, hhit, hfocus⟩ := Option.map_eq_some_iff.mp htarget
    exact h hit hhit hfocus

/-! ### The pointer stays under a GLIDE request -/

/-- The pointer's place and its remainders. -/
def Ptu.SamePlace (p q : Ptu) : Prop := q.px = p.px ∧ q.py = p.py ∧ q.fx = p.fx ∧ q.fy = p.fy

theorem Ptu.SamePlace.trans {p q r : Ptu} (h : p.SamePlace q) (k : q.SamePlace r) : p.SamePlace r :=
  ⟨k.1.trans h.1, k.2.1.trans h.2.1, k.2.2.1.trans h.2.2.1, k.2.2.2.trans h.2.2.2⟩

theorem State.warpedPtu_glide (s : State) (c : Comp) : s.warpedPtu c .glide = s.ptu := by
  unfold State.warpedPtu
  split
  · exact if_pos rfl
  · rfl

/-- R65: a focus change by glide does not move the pointer. -/
theorem State.changeFocus_glide_place (s : State) (c : Comp) : s.ptu.SamePlace (s.changeFocus c .glide).ptu := by
  have hptu := (s.changeFocus_changed c .glide).ptu
  rw [State.warpedPtu_glide] at hptu
  rw [hptu]
  exact ⟨rfl, rfl, rfl, rfl⟩

theorem State.grant_glide_place (s : State) (c : Comp) : s.ptu.SamePlace (s.grant c .glide false).ptu := by
  unfold State.grant
  split
  · dsimp only
    split
    · exact State.changeFocus_glide_place (s.setFcu { s.fcu with lock := s.lockOnLeavingHard }) c
    · exact s.changeFocus_glide_place c
  · exact ⟨rfl, rfl, rfl, rfl⟩
  · exact ⟨rfl, rfl, rfl, rfl⟩

theorem State.requestFocus_glide_place (s : State) (c : Comp) : s.ptu.SamePlace (s.requestFocus c .glide false).ptu := by
  unfold State.requestFocus
  split
  · refine (s.grant_glide_place c).trans ?_
    unfold State.takeDeferredGlide
    split
    · split
      · exact State.grant_glide_place _ _
      · exact ⟨rfl, rfl, rfl, rfl⟩
    · exact ⟨rfl, rfl, rfl, rfl⟩
  · exact ⟨rfl, rfl, rfl, rfl⟩
  · exact ⟨rfl, rfl, rfl, rfl⟩

theorem State.reevaluate_place (s : State) : s.ptu.SamePlace s.reevaluate.ptu := by
  have hcore : s.ptu.SamePlace s.reevaluateCore.ptu := by
    rw [State.reevaluateCore_eq]
    exact ⟨rfl, rfl, rfl, rfl⟩
  unfold State.reevaluate
  split
  · exact hcore.trans (State.requestFocus_glide_place _ _)
  · exact hcore

/-- R82, R83: a movement leaves the pointer where the two axis steps take it. -/
theorem State.takeMotion_place (s : State) (dx dy : Int) : (s.moved dx dy).SamePlace (s.takeMotion dx dy).ptu := by
  have hplace := (s.setPtu (s.moved dx dy)).reevaluate_place
  rw [State.takeMotion_eq]
  split
  · unfold State.motionReport
    split
    · split <;> exact hplace
    · exact hplace
  · exact hplace

/-! ### The placed screens -/

theorem screenAt_isSome_iff_placed (l : Lco) (x y : Int) :
    (l.screenAt x y).isSome = true ↔ ∃ o : ScreenId, l.screens[o].placed = true ∧ l.screens[o].rect.containsInt x y = true := by
  rw [Option.isSome_iff_exists]
  exact ⟨fun ⟨o, ho⟩ => ⟨o, screenAt_some ho⟩, fun ⟨o, hplaced, hin⟩ => screenAt_of hplaced hin⟩

/-- R125: no two placed screens share a point, so the screen under a point is the one that holds it. -/
theorem screenAt_eq {l : Lco} {scr : ScreenId} {x y : Int} (hcanvas : l.CanvasLaw) (hplaced : l.screens[scr].placed = true)
    (hin : l.screens[scr].rect.containsInt x y = true) : l.screenAt x y = some scr := by
  obtain ⟨o, ho⟩ := screenAt_of hplaced hin
  obtain ⟨hplaced', hin'⟩ := screenAt_some ho
  rw [ho]
  by_contra hne
  have hapart := hcanvas.2.2 scr o (fun h => hne (by rw [h])) hplaced hplaced'
  simp only [Rect.containsInt, Rect.overlaps, Bool.and_eq_true, decide_eq_true_eq, Bool.and_eq_false_iff, decide_eq_false_iff_not]
    at hin hin' hapart
  omega

theorem stepAxis_inside {q : Int} (hq : 0 ≤ q) (origin extent : Nat) (f : Int) :
    ((stepAxis true q origin extent f).1 : Int) = q ∧ (stepAxis true q origin extent f).2 = f :=
  ⟨Int.toNat_of_nonneg hq, rfl⟩

theorem stepAxis_outside {extent : Nat} (hextent : 1 ≤ extent) (q : Int) (origin : Nat) (f : Int) :
    ((stepAxis false q origin extent f).1 : Int) = max (origin : Int) (min (origin + extent - 1 : Int) q) ∧
      (stepAxis false q origin extent f).2 = 0 := by
  have hclamp := clampInt_eq_max_min (a := (origin : Int)) (b := origin + extent - 1) (by omega) q
  refine ⟨?_, rfl⟩
  rw [← hclamp]
  refine Int.toNat_of_nonneg ?_
  rw [hclamp]
  omega

/-- Some placed screen holds a point (R83). -/
def Lco.Inside (l : Lco) (x y : Int) : Prop :=
  ∃ o : ScreenId, l.screens[o].placed = true ∧ l.screens[o].rect.containsInt x y = true

theorem Lco.Inside.nonneg {l : Lco} {x y : Int} (h : l.Inside x y) : 0 ≤ x ∧ 0 ≤ y := by
  obtain ⟨o, -, hin⟩ := h
  simp only [Rect.containsInt, Bool.and_eq_true, decide_eq_true_eq] at hin
  omega

/-- R83: the horizontal step, from the screen that holds the pointer. -/
theorem State.stepX_spec {scr : ScreenId} (hcanvas : s.lco.CanvasLaw) (hplaced : s.lco.screens[scr].placed = true)
    (hin : s.lco.screens[scr].rect.contains s.ptu.px s.ptu.py = true) (qx f : Int) :
    let c := s.lco.screens[scr].rect
    (s.lco.Inside qx s.ptu.py → ((s.stepX qx f).1 : Int) = qx ∧ (s.stepX qx f).2 = f) ∧
    (¬ s.lco.Inside qx s.ptu.py →
      ((s.stepX qx f).1 : Int) = max (c.x : Int) (min (c.x + c.w - 1 : Int) qx) ∧ (s.stepX qx f).2 = 0) ∧
    s.lco.Inside (s.stepX qx f).1 s.ptu.py := by
  intro c
  have hcontains : c.containsInt s.ptu.px s.ptu.py = true := by rw [contains_cast]; exact hin
  have hscreen : s.pointerScreen = scr := by
    rw [State.pointerScreen, screenAt_eq hcanvas hplaced hcontains]
    rfl
  have hwidth : 1 ≤ c.w := by
    have hplaceable := (hcanvas.2.1 scr).1
    simp only [Rect.Placeable] at hplaceable
    simp only [c]
    omega
  unfold State.stepX
  simp only [hscreen]
  by_cases hinside : s.lco.Inside qx s.ptu.py
  · rw [(screenAt_isSome_iff_placed _ _ _).mpr hinside]
    obtain ⟨hfirst, hsecond⟩ := stepAxis_inside hinside.nonneg.1 c.x c.w f
    exact ⟨fun _ => ⟨hfirst, hsecond⟩, fun h => absurd hinside h, by rw [hfirst]; exact hinside⟩
  · rw [Bool.eq_false_iff.mpr (mt (screenAt_isSome_iff_placed _ _ _).mp hinside)]
    obtain ⟨hfirst, hsecond⟩ := stepAxis_outside hwidth qx c.x f
    refine ⟨fun h => absurd h hinside, fun _ => ⟨hfirst, hsecond⟩, scr, hplaced, ?_⟩
    rw [hfirst]
    change c.containsInt _ _ = true
    simp only [Rect.containsInt, Bool.and_eq_true, decide_eq_true_eq] at hcontains ⊢
    omega

/-- R83: the vertical step, from the screen that holds the new x at the old y. -/
theorem State.stepY_spec {scr : ScreenId} {x : Nat} (hcanvas : s.lco.CanvasLaw) (hplaced : s.lco.screens[scr].placed = true)
    (hin : s.lco.screens[scr].rect.containsInt x s.ptu.py = true) (qy f : Int) :
    let c := s.lco.screens[scr].rect
    (s.lco.Inside x qy → ((s.stepY x qy f).1 : Int) = qy ∧ (s.stepY x qy f).2 = f) ∧
    (¬ s.lco.Inside x qy →
      ((s.stepY x qy f).1 : Int) = max (c.y : Int) (min (c.y + c.h - 1 : Int) qy) ∧ (s.stepY x qy f).2 = 0) := by
  intro c
  have hheight : 1 ≤ c.h := by
    have hplaceable := (hcanvas.2.1 scr).1
    simp only [Rect.Placeable] at hplaceable
    simp only [c]
    omega
  unfold State.stepY
  simp only [screenAt_eq hcanvas hplaced hin, Option.getD_some]
  by_cases hinside : s.lco.Inside x qy
  · rw [(screenAt_isSome_iff_placed _ _ _).mpr hinside]
    exact ⟨fun _ => stepAxis_inside hinside.nonneg.2 c.y c.h f, fun h => absurd hinside h⟩
  · rw [Bool.eq_false_iff.mpr (mt (screenAt_isSome_iff_placed _ _ _).mp hinside)]
    exact ⟨fun h => absurd h hinside, fun _ => stepAxis_outside hheight qy c.y f⟩

/-- A SYSTEM code handed to a computer changes its record, and may queue a notice (R115). -/
theorem State.handSystem_eq (s : State) (c : Comp) (code : SystemCode) : ∃ r clp,
    s.handSystem c code = { s with cps := s.cps.set c r, clp := clp } := by
  unfold State.handSystem
  dsimp only
  split
  · exact ⟨_, _, rfl⟩
  · exact ⟨_, s.clp, rfl⟩

/-- R156, R158: codes handed to computers change their records, and may queue notices. -/
theorem State.foldl_handCode_eq (code : SystemCode) (l : List Comp) (s : State) : ∃ cps clp,
    l.foldl (State.handCode code) s = { s with cps := cps, clp := clp } := by
  induction l generalizing s with
  | nil => exact ⟨s.cps, s.clp, rfl⟩
  | cons c l ih =>
    obtain ⟨r, clp, hfirst⟩ := s.handSystem_eq c code
    obtain ⟨r', clp', hsecond⟩ := (s.handSystem c code).handSystem_eq c .none
    obtain ⟨cps, clp'', hrest⟩ := ih (s.handCode code c)
    refine ⟨cps, clp'', ?_⟩
    rw [List.foldl_cons, hrest, State.handCode, hsecond, hfirst]

/-- R158: short of ASLEEP the gate passes a movement, and the pointer and the layout stay as they are. -/
theorem State.gate_motion (hdesk : s.wpc.desk ≠ .asleep) (p : DeskPortId) (dx dy : Int) :
    ∃ u, s.gate (.motion p dx dy) = (u, true) ∧ u.ptu = s.ptu ∧ u.lco = s.lco := by
  unfold State.gate
  cases h : s.wpc.desk with
  | awake => exact ⟨s, rfl, rfl, rfl⟩
  | asleep => exact absurd h hdesk
  | sleepRequested =>
    refine ⟨_, rfl, ?_⟩
    split
    · unfold State.cancelSleep
      dsimp only
      generalize allComps.filter _ = awake
      obtain ⟨cps, clp, hcodes⟩ := State.foldl_handCode_eq .wake awake (s.setWpc { s.wpc with deskDeadline := none })
      rw [hcodes]
      exact ⟨rfl, rfl⟩
    · exact ⟨rfl, rfl⟩

/-- Settles O29. -/
theorem movementStaysOnPlacedScreens : Obligations.MovementStaysOnPlacedScreens := by
  unfold Obligations.MovementStaysOnPlacedScreens
  intro t p b bx bY s scr hport hdesk hmoves hcanvas hplaced hin inside tx ty qx qy c
  obtain ⟨u, hgate, hptu, hlco⟩ := State.gate_motion (s := s.at t) hdesk p (deskCount bx) (deskCount bY)
  have hexec : exec (.pointerReport t p [b, bx, bY]) s = .next (u.takeMotion (deskCount bx) (deskCount bY)) := by
    refine congrArg Host.Outcome.next ((State.pointerReport_motion (s := s.at t) hport hmoves).trans ?_)
    simp only [State.handOn, hgate]
    rfl
  refine ⟨_, hexec, ?_⟩
  obtain ⟨hpx, hpy, hfx, hfy⟩ := u.takeMotion_place (deskCount bx) (deskCount bY)
  rw [hpx, hpy, hfx, hfy]
  have hX := State.stepX_spec (s := s) hcanvas hplaced hin qx (tx.tmod 16)
  obtain ⟨o, hoplaced, hoin⟩ := hX.2.2
  have hY := State.stepY_spec (s := s) hcanvas hoplaced hoin qy (ty.tmod 16)
  have hmoved : u.moved (deskCount bx) (deskCount bY) = { s.ptu with
      px := (s.stepX qx (tx.tmod 16)).1, py := (s.stepY (s.stepX qx (tx.tmod 16)).1 qy (ty.tmod 16)).1
      fx := (s.stepX qx (tx.tmod 16)).2, fy := (s.stepY (s.stepX qx (tx.tmod 16)).1 qy (ty.tmod 16)).2 } := by
    simp only [State.moved, State.stepX, State.stepY, State.pointerScreen, hptu, hlco]
    rfl
  have hremainder (a : Int) : a.tmod 16 = a - 16 * a.tdiv 16 := Int.tmod_def a 16
  rw [hmoved]
  refine ⟨fun h => ?_, hX.2.1, o, hoplaced, by rw [← contains_cast]; exact hoin, fun h => ?_, hY.2⟩
  · rw [← hremainder]
    exact hX.1 h
  · rw [← hremainder]
    exact hY.1 h

end Sys2Proof.Machine
end

section
/-! Buttons (R10, R80, R93, R94, R96): the desk button set, the delivered one, and what one button's make and break do. -/

namespace Sys2Proof.Machine

variable {s t u : State}

/-! ### The two button sets -/

theorem mem_allDeskPorts (p : DeskPortId) : p ∈ allDeskPorts := by revert p; decide

/-- A union over the desk ports holds what one of them holds. -/
theorem getLsbD_union_ports {w : Nat} (f : DeskPortId → BitVec w) (n : Nat) :
    (allDeskPorts.foldl (fun acc p => acc ||| f p) 0).getLsbD n = true ↔ ∃ p : DeskPortId, (f p).getLsbD n = true := by
  rw [getLsbD_foldl_or]
  simp [mem_allDeskPorts]

theorem DeskPort.held_getLsbD (d : DeskPort) (n : Nat) :
    d.held.getLsbD n = true ↔ ∃ held : Buttons, d = .pointer held ∧ held.getLsbD n = true := by
  cases d <;> simp [DeskPort.held]

theorem deskButtons_getLsbD (s : State) (b : Fin 5) : s.deskButtons.getLsbD b.val = true ↔
    ∃ (p : DeskPortId) (held : Buttons), s.diu[p] = .pointer held ∧ held.getLsbD b.val = true := by
  simp only [State.deskButtons, getLsbD_union_ports, DeskPort.held_getLsbD]

theorem deliveredButtons_getLsbD (s : State) (b : Fin 5) : s.deliveredButtons.getLsbD b.val = true ↔
    ∃ (p : DeskPortId) (held : Buttons), s.diu[p] = .pointer held ∧ held.getLsbD b.val = true ∧
      s.ptu.stale[p].getLsbD b.val = false := by
  have hport (p : DeskPortId) : (s.diu[p].held &&& ~~~ s.ptu.stale[p]).getLsbD b.val = true ↔
      s.diu[p].held.getLsbD b.val = true ∧ s.ptu.stale[p].getLsbD b.val = false := by
    simp [b.isLt]
  simp only [State.deliveredButtons, getLsbD_union_ports, hport, DeskPort.held_getLsbD]
  constructor
  · rintro ⟨p, ⟨held, hdiu, hin⟩, hfresh⟩
    exact ⟨p, held, hdiu, hin, hfresh⟩
  · rintro ⟨p, held, hdiu, hin, hfresh⟩
    exact ⟨p, ⟨held, hdiu, hin⟩, hfresh⟩

/-! ### A report that is one button event -/

theorem setWidth_buttons (held : Buttons) : (held.setWidth 8).setWidth 5 = held := by
  rw [BitVec.setWidth_setWidth_of_le held (by decide), BitVec.setWidth_eq]

theorem buttonList_pressed : ∀ (held : Buttons) (b : Fin 5), held.getLsbD b.val = false →
    buttonList (held &&& ~~~ (held ||| 1#5 <<< b.val)) = [] ∧ buttonList ((held ||| 1#5 <<< b.val) &&& ~~~ held) = [b] := by
  decide

theorem buttonList_released : ∀ (held : Buttons) (b : Fin 5), held.getLsbD b.val = true →
    buttonList (held &&& ~~~ (held &&& ~~~ (1#5 <<< b.val))) = [b] ∧ buttonList ((held &&& ~~~ (1#5 <<< b.val)) &&& ~~~ held) = [] := by
  decide

/-- R10: a report with no movement and one button more makes that button's make alone. -/
theorem State.pointerReport_press {p : DeskPortId} {held : Buttons} {b : Fin 5} (hport : s.diu[p] = .pointer held)
    (hup : held.getLsbD b.val = false) : s.pointerReport p [(held ||| 1#5 <<< b.val).setWidth 8, 0, 0] = s.buttonMake p b := by
  have hreduce : reduceMove [(held ||| 1#5 <<< b.val).setWidth 8, 0, 0] =
      some { buttons := ((held ||| 1#5 <<< b.val).setWidth 8).setWidth 5, dx := 0, dy := 0, wheel := 0 } := rfl
  obtain ⟨hnone, hone⟩ := buttonList_pressed held b hup
  unfold State.pointerReport
  rw [hport, hreduce, setWidth_buttons]
  simp only [State.takeMoveReport, and_self, if_true, hnone, hone, List.foldl_nil, List.foldl_cons]

/-- R10: a report with no movement and one button less makes that button's break alone. -/
theorem State.pointerReport_release {p : DeskPortId} {held : Buttons} {b : Fin 5} (hport : s.diu[p] = .pointer held)
    (hdown : held.getLsbD b.val = true) :
    s.pointerReport p [(held &&& ~~~ (1#5 <<< b.val)).setWidth 8, 0, 0] = s.buttonBreak p b := by
  have hreduce : reduceMove [(held &&& ~~~ (1#5 <<< b.val)).setWidth 8, 0, 0] =
      some { buttons := ((held &&& ~~~ (1#5 <<< b.val)).setWidth 8).setWidth 5, dx := 0, dy := 0, wheel := 0 } := rfl
  obtain ⟨hone, hnone⟩ := buttonList_released held b hdown
  unfold State.pointerReport
  rw [hport, hreduce, setWidth_buttons]
  simp only [State.takeMoveReport, and_self, if_true, hnone, hone, List.foldl_nil, List.foldl_cons]

/-! ### Makes and breaks -/

/-- R158: the gate passes a break in every desk state, and nothing comes of it there. -/
theorem State.gate_break {e : DeskEvent} (h : e.isBreak = true) : s.gate e = (s, true) := by
  have hrouses : e.rouses = false := by
    cases e
    case keyBreak => rfl
    case buttonBreak => rfl
    all_goals exact nomatch h
  unfold State.gate
  split
  · rfl
  · rw [hrouses]
    rfl
  · exact if_pos h

theorem State.gate_awake (h : s.wpc.desk = .awake) (e : DeskEvent) : s.gate e = (s, true) := by
  simp only [State.gate, h]

theorem State.clickToFocus_eq (p : DeskPortId) (b : Fin 5) (s : State) : s.clickToFocus p b =
    match s.fcu.pending with
    | none => s
    | some pending => (s.requestFocus pending.target .glide false).setPtu
        ((s.requestFocus pending.target .glide false).ptu.unmark p b) := by
  unfold State.clickToFocus
  cases s.fcu.pending <;> rfl

/-- R93: what follows click-to-focus. -/
theorem State.takeButtonMake_of {p : DeskPortId} {b : Fin 5} {clicked : State}
    (hclicked : (s.setPtu (s.ptu.unmark p b)).clickToFocus p b = clicked) :
    let f := clicked.fcu.focus
    let locked := (clicked.reportToFocus 0).setSoft
    s.takeButtonMake p b =
      if ((clicked.comp f).port = .suspended ∨ (clicked.comp f).port = .resuming) ∧ (clicked.comp f).wakeOnInput = true
      then locked.wake State.reevaluate f .input else locked := by
  intro f locked
  obtain ⟨q, l, o, m, hrecord⟩ := (clicked.comp f).takePointer_frame
    { buttons := clicked.deliveredButtons, ax := clicked.reportPosition.1, ay := clicked.reportPosition.2 } 0
  have hsoft : locked.cps = (clicked.reportToFocus 0).cps ∧ locked.fcu.focus = f := by
    simp only [locked, State.setSoft]
    split <;> exact ⟨rfl, rfl⟩
  have hcomp : locked.comp f = { clicked.comp f with queue := q, lastPointer := l, owedPointer := o, merge := m } := by
    rw [← hrecord]
    simp only [State.comp, hsoft.1]
    exact State.comp_setComp_same clicked f _
  have hport : (locked.comp f).port = (clicked.comp f).port := by rw [hcomp]
  have hwakes : (locked.comp f).wakeOnInput = (clicked.comp f).wakeOnInput := by rw [hcomp]
  unfold State.takeButtonMake State.inputWake
  simp only [hclicked, show (clicked.reportToFocus 0).setSoft = locked from rfl, hsoft.2, hport, hwakes]
  cases (clicked.comp f).port <;> simp only [reduceCtorEq, or_self, or_true, true_or, false_and, true_and, if_false]

theorem State.takeButtonBreak_eq (p : DeskPortId) (b : Fin 5) (s : State) :
    let taken := if s.ptu.stale[p].getLsbD b.val then s.setPtu (s.ptu.unmark p b) else s.reportToFocus 0
    s.takeButtonBreak p b =
      if s.deskButtons = 0 ∧ s.fcu.lock = .soft then State.reevaluate (taken.setFcu { s.fcu with lock := .none }) else taken := by
  intro taken
  have hbreak : s.takeButtonBreak p b = taken.afterButtonBreak := by
    simp only [State.takeButtonBreak, taken]
    split <;> rfl
  have hframe : taken.fcu = s.fcu ∧ taken.deskButtons = s.deskButtons := by
    simp only [taken]
    split <;> exact ⟨rfl, rfl⟩
  rw [hbreak, State.afterButtonBreak, State.clearSoft, hframe.1, hframe.2]
  split_ifs with hnone hsoft hboth hboth
  · rfl
  · exact absurd ⟨hnone, hsoft⟩ hboth
  · exact absurd hboth.2 hsoft
  · rfl
  · exact absurd (And.left ‹_›) hnone
  · rfl

/-- Settles O33. -/
theorem buttonsLockAndRelease : Obligations.ButtonsLockAndRelease := by
  unfold Obligations.ButtonsLockAndRelease
  refine ⟨fun s b => ⟨deskButtons_getLsbD s b, deliveredButtons_getLsbD s b⟩, ?_⟩
  intro t p b held s bit unmarked handed
  refine ⟨fun hport hup hawake => ?press, fun hport hdown => ?release⟩
  case press =>
    intro down clicked f locked
    refine congrArg Host.Outcome.next ((State.pointerReport_press (s := s.at t) hport hup).trans ?_)
    have hpressed : (s.at t).buttonMake p b = State.takeButtonMake p b { s.at t with diu := s.diu.set p (.pointer (held ||| bit)) } := by
      have hdesk : State.wpc { s.at t with diu := s.diu.set p (.pointer (held ||| bit)) } = s.wpc := rfl
      rw [State.buttonMake, State.at_diu, hport, DeskPort.pressButton, State.handOn, State.gate_awake]
      · rfl
      · exact hawake
    have hclicked : State.clickToFocus p b down = clicked := by
      rw [State.clickToFocus_eq]
      change (match s.fcu.pending with
        | none => down
        | some pending => unmarked (down.requestFocus pending.target .glide false)) = clicked
      rfl
    have hlocked : (clicked.reportToFocus 0).setSoft = locked := by
      have hfcu : (clicked.reportToFocus 0).fcu = clicked.fcu := rfl
      simp only [State.setSoft, hfcu, locked]
      split <;> rfl
    rw [hpressed, State.takeButtonMake_of (s := { s.at t with diu := s.diu.set p (.pointer (held ||| bit)) }) hclicked, hlocked]
  case release =>
    intro up taken
    refine congrArg Host.Outcome.next ((State.pointerReport_release (s := s.at t) hport hdown).trans ?_)
    have hreleased : (s.at t).buttonBreak p b = up.takeButtonBreak p b := by
      rw [State.buttonBreak, State.at_diu, hport, DeskPort.releaseButton, State.handOn, State.gate_break rfl]
      rfl
    rw [hreleased, State.takeButtonBreak_eq]
    rfl

end Sys2Proof.Machine
end

section
/-! The reading of the layout (R65, R84 to R87): the cells of a grid, the absolute mapping, the hit test and the places of a warp. -/

namespace Sys2Proof.Machine

variable {s : State}

/-! ### The cells of a grid -/

/-- R85, one axis: the part that holds a point, and no other does. -/
theorem gridPart_holds_iff {origin length n p k : Nat} (hn : 1 ≤ n) (hlength : n ≤ length) (hlow : origin ≤ p)
    (hhigh : p < origin + length) (hk : k < n) :
    ((gridPart origin length n k).1 ≤ p ∧ p < (gridPart origin length n k).1 + (gridPart origin length n k).2) ↔
      k = min ((p - origin) / (length / n)) (n - 1) := by
  have hbase : 0 < length / n := (Nat.le_div_iff_mul_le hn).mpr (by omega)
  obtain ⟨m, rfl⟩ : ∃ m, n = m + 1 := ⟨n - 1, by omega⟩
  have hfits : length / (m + 1) * (m + 1) ≤ length := Nat.div_mul_le_self length (m + 1)
  unfold gridPart
  dsimp only
  generalize length / (m + 1) = base at hbase hfits ⊢
  have hlower : k ≤ (p - origin) / base ↔ k * base ≤ p - origin := Nat.le_div_iff_mul_le hbase
  have hupper : (p - origin) / base < k + 1 ↔ p - origin < (k + 1) * base := Nat.div_lt_iff_lt_mul hbase
  rw [Nat.succ_mul] at hupper
  rw [Nat.mul_succ] at hfits
  rw [Nat.add_sub_cancel]
  by_cases hlast : k = m
  · subst hlast
    rw [if_pos rfl]
    rw [Nat.mul_comm] at hlower
    rw [Nat.mul_comm k base]
    omega
  · rw [if_neg (by omega)]
    omega

theorem cellRect_contains_iff (rect : Rect) (columns rows i x y : Nat) : (cellRect rect columns rows i).contains x y = true ↔
    ((gridPart rect.x rect.w columns (i % columns)).1 ≤ x ∧
      x < (gridPart rect.x rect.w columns (i % columns)).1 + (gridPart rect.x rect.w columns (i % columns)).2) ∧
    ((gridPart rect.y rect.h rows (i / columns)).1 ≤ y ∧
      y < (gridPart rect.y rect.h rows (i / columns)).1 + (gridPart rect.y rect.h rows (i / columns)).2) := by
  obtain ⟨⟨cx, cw⟩, hx⟩ : ∃ a, gridPart rect.x rect.w columns (i % columns) = a := ⟨_, rfl⟩
  obtain ⟨⟨cy, ch⟩, hy⟩ : ∃ a, gridPart rect.y rect.h rows (i / columns) = a := ⟨_, rfl⟩
  simp [cellRect, Rect.contains, and_assoc, hx, hy]

/-- R85: the cell whose rectangle holds a point is the one of the point's index. -/
theorem cellRect_contains_iff_cellAt {rect : Rect} {columns rows x y : Nat} (hcolumns : 1 ≤ columns) (hrows : 1 ≤ rows)
    (hwide : columns ≤ rect.w) (hhigh : rows ≤ rect.h) (hin : rect.contains x y = true) :
    cellAt rect columns rows x y < columns * rows ∧
    ∀ i, i < columns * rows → ((cellRect rect columns rows i).contains x y = true ↔ i = cellAt rect columns rows x y) := by
  simp only [Rect.contains, Bool.and_eq_true, decide_eq_true_eq] at hin
  obtain ⟨⟨⟨hxlow, hxhigh⟩, hylow⟩, hyhigh⟩ := hin
  unfold cellAt
  dsimp only
  have hcolumn : min ((x - rect.x) / (rect.w / columns)) (columns - 1) < columns := by omega
  have hrow : min ((y - rect.y) / (rect.h / rows)) (rows - 1) < rows := by omega
  have hx {k : Nat} (hk : k < columns) := gridPart_holds_iff (k := k) hcolumns hwide hxlow hxhigh hk
  have hy {k : Nat} (hk : k < rows) := gridPart_holds_iff (k := k) hrows hhigh hylow hyhigh hk
  generalize min ((x - rect.x) / (rect.w / columns)) (columns - 1) = column at hcolumn hx ⊢
  generalize min ((y - rect.y) / (rect.h / rows)) (rows - 1) = row at hrow hy ⊢
  constructor
  · calc row * columns + column < row * columns + columns := by omega
      _ = columns * (row + 1) := by ring
      _ ≤ columns * rows := Nat.mul_le_mul_left columns hrow
  · intro i hi
    rw [cellRect_contains_iff, hx (Nat.mod_lt i hcolumns), hy (Nat.div_lt_of_lt_mul hi)]
    constructor
    · rintro ⟨rfl, rfl⟩
      rw [Nat.mul_comm, Nat.div_add_mod]
    · rintro rfl
      rw [Nat.mul_comm, Nat.mul_add_mod, Nat.mod_eq_of_lt hcolumn, Nat.mul_add_div hcolumns, Nat.div_eq_of_lt hcolumn]
      exact ⟨rfl, rfl⟩

/-! ### The absolute mapping -/

/-- R87: halving both sides of the quotient. -/
theorem absoluteAxis_eq (pixel extent : Nat) : absoluteAxis pixel extent = min 32767 ((2 * pixel + 1) * 16384 / extent) := by
  rw [absoluteAxis, show (2 * pixel + 1) * 32768 = 2 * ((2 * pixel + 1) * 16384) by ring, Nat.mul_div_mul_left _ _ (by decide)]

theorem absoluteAxis_exact {pixel extent : Nat} (hextent : 1 ≤ extent) (hsmall : extent ≤ 16384) :
    (pixel < extent → absoluteAxis pixel extent * extent / 32768 = pixel) ∧
    (extent ≤ pixel → absoluteAxis pixel extent = 32767) := by
  rw [absoluteAxis_eq]
  have hlow := Nat.div_mul_le_self ((2 * pixel + 1) * 16384) extent
  have hhigh := Nat.lt_div_mul_add (a := (2 * pixel + 1) * 16384) hextent
  refine ⟨fun hpixel => ?_, fun hpixel => ?_⟩
  · have hfits : (2 * pixel + 1) * 16384 / extent < 32768 := by
      rw [Nat.div_lt_iff_lt_mul hextent]
      omega
    rw [min_eq_right (by omega)]
    refine Nat.div_eq_of_lt_le ?_ ?_ <;> omega
  · have hover : 32768 ≤ (2 * pixel + 1) * 16384 / extent := by
      rw [Nat.le_div_iff_mul_le hextent]
      omega
    omega

/-! ### The hit test -/

theorem lastTileAt_none {l : Lco} {lx ly : Nat} {rs : List TileId}
    (h : ∀ r ∈ rs, ¬ ∃ tile, l.tiles[r] = some tile ∧ tile.rect.contains lx ly = true) : l.lastTileAt lx ly rs = none := by
  induction rs with
  | nil => rfl
  | cons r rs ih =>
    rw [Lco.lastTileAt, ih fun q hq => h q (List.mem_cons_of_mem _ hq)]
    cases htile : l.tiles[r] with
    | none => rfl
    | some tile => exact if_neg fun hin => h r List.mem_cons_self ⟨tile, htile, hin⟩

/-- R84: the last record of the chain that holds the point. -/
theorem lastTileAt_last {l : Lco} {lx ly : Nat} {before after : List TileId} {r : TileId} {tile : Tile}
    (htile : l.tiles[r] = some tile) (hin : tile.rect.contains lx ly = true)
    (hafter : ∀ q ∈ after, ¬ ∃ tile, l.tiles[q] = some tile ∧ tile.rect.contains lx ly = true) :
    l.lastTileAt lx ly (before ++ r :: after) = some (r, tile) := by
  induction before with
  | nil =>
    rw [List.nil_append, Lco.lastTileAt, lastTileAt_none hafter, htile]
    exact if_pos hin
  | cons q before ih => rw [List.cons_append, Lco.lastTileAt, ih]

theorem hitTest_of_screen {scr : ScreenId} (h : s.pointerScreen = scr) : s.hitTest =
    match s.lco.lastTileAt (s.ptu.px - s.lco.screens[scr].rect.x) (s.ptu.py - s.lco.screens[scr].rect.y) (s.lco.activeChain scr) with
    | none => ({ screen := scr, record := none, cell := none }, none)
    | some (r, tile) =>
      ({ screen := scr, record := some r,
         cell := (s.hitTile tile (s.ptu.px - s.lco.screens[scr].rect.x) (s.ptu.py - s.lco.screens[scr].rect.y)).1 },
        (s.hitTile tile (s.ptu.px - s.lco.screens[scr].rect.x) (s.ptu.py - s.lco.screens[scr].rect.y)).2) := by
  subst h
  rfl

theorem pointerScreen_eq {scr : ScreenId} (hcanvas : s.lco.CanvasLaw) (hplaced : s.lco.screens[scr].placed = true)
    (hin : s.lco.screens[scr].rect.contains s.ptu.px s.ptu.py = true) : s.pointerScreen = scr := by
  rw [State.pointerScreen, screenAt_eq hcanvas hplaced (by rw [contains_cast]; exact hin)]
  rfl

/-! ### The places of a warp -/

theorem head?_map_filter {α β : Type} (l : List α) (q : α → Bool) (g : α → β) :
    ((l.filter q).map g).head? = l.findSome? (fun a => if q a then some (g a) else none) := by
  induction l with
  | nil => rfl
  | cons a l ih =>
    rw [List.findSome?_cons, List.filter_cons]
    cases q a
    · exact ih
    · rfl

theorem findSome?_filter_eq {α β : Type} (l : List α) (q : α → Bool) (f : α → Option β) :
    (l.filter q).findSome? f = l.findSome? (fun a => if q a then f a else none) := by
  induction l with
  | nil => rfl
  | cons a l ih =>
    rw [List.findSome?_cons, List.filter_cons]
    cases q a
    · exact ih
    · simp only [if_true, List.findSome?_cons, ih]

/-- R65: the places of a tile: each rectangle that shows a head, with that head. -/
theorem Tile.shown_places (tile : Tile) : tile.shown.map Prod.snd = match tile.kind with
    | .single _ (some a) .alternate _ _ _ => [(tile.rect, a)]
    | .single p _ _ _ _ _ => [(tile.rect, p)]
    | .grid columns rows cells _ => cells.zipIdx.flatMap (fun (cell, i) =>
        cell.toList.map (fun h => (cellRect tile.rect columns rows i, h)))
    | .fill _ => [] := by
  obtain ⟨next, rect, kind⟩ := tile
  cases kind with
  | fill colour => rfl
  | single p a showing f view b => cases showing <;> cases a <;> rfl
  | grid columns rows cells b =>
    simp only [Tile.shown]
    induction cells.zipIdx with
    | nil => rfl
    | cons cell rest ih =>
      obtain ⟨cell, i⟩ := cell
      cases cell <;> simp_all

/-- Settles O31. -/
theorem cellsAndAbsolutePositionsAreExact : Obligations.CellsAndAbsolutePositionsAreExact := by
  unfold Obligations.CellsAndAbsolutePositionsAreExact
  refine ⟨fun rect columns rows lx ly hcolumns hrows hwide hhigh hin => cellRect_contains_iff_cellAt hcolumns hrows hwide hhigh hin,
    fun pixel extent hextent hsmall => ⟨?absolute, absoluteAxis_exact hextent hsmall⟩, fun s rect view h lx ly => ?head,
    fun s scr hcanvas hplaced hin => ?hit, fun s c => ?warp⟩
  case absolute => exact min_le_left _ _
  case head =>
    intro head size region sx sy
    refine ⟨fun hnone => ?_, fun c hsome => ?_⟩
    · simp only [State.hitHead, show s.lco.heads[h].owner = none from hnone]
    · simp only [State.hitHead, show s.lco.heads[h].owner = some c from hsome]
      cases view <;> rfl
  case hit =>
    intro lx ly holds found
    have hhit := hitTest_of_screen (pointerScreen_eq hcanvas hplaced hin)
    refine ⟨fun hnone => ?_, fun before r after tile hchain htile htilein hafter => ?_⟩
    · rw [hhit, lastTileAt_none hnone]
    · have hlast : s.hitTest = (found (some r) (s.hitTile tile lx ly).1, (s.hitTile tile lx ly).2) := by
        rw [hhit, hchain, lastTileAt_last htile htilein hafter]
      rw [hlast]
      refine ⟨fun colour hkind => ?_, fun p a f view b hkind => ?_, fun p a f view b hkind => ?_, fun columns rows cells b hkind => ?_⟩
      · simp only [State.hitTile, hkind]
      · simp only [State.hitTile, hkind, showingHead]
      · simp only [State.hitTile, hkind, showingHead, Option.getD_some]
      · intro i
        refine ⟨fun h hcell => ?_, fun hcell => ?_⟩
        · simp only [State.hitTile, hkind, List.getD_eq_getElem?_getD, show cells[cellAt tile.rect columns rows lx ly]? = _ from hcell]
          rfl
        · simp only [State.hitTile, hkind, List.getD_eq_getElem?_getD, show cells[cellAt tile.rect columns rows lx ly]? = _ from hcell]
          rfl
  case warp =>
    intro places on
    have hplaces (tile : Tile) : places tile = tile.shown.map Prod.snd := (Tile.shown_places tile).symm
    have hplace (scr : ScreenId) (tile : Tile) : (((places tile).filter
        (fun place => decide (s.lco.heads[place.2].owner = some c))).map (fun place =>
          (s.lco.screens[scr].rect.x + (place.1.x + place.1.w / 2), s.lco.screens[scr].rect.y + (place.1.y + place.1.h / 2)))).head? =
        tile.shown.findSome? (fun x => if s.lco.heads[x.2.2].owner = some c then
          some (s.lco.screens[scr].rect.x + x.2.1.centre.1, s.lco.screens[scr].rect.y + x.2.1.centre.2) else none) := by
      rw [hplaces, head?_map_filter, List.findSome?_map]
      simp only [decide_eq_true_eq]
      rfl
    have hon (scr : ScreenId) : (on scr).head? = s.placeOn c scr := by
      simp only [on, State.placeOn, List.filter_flatMap, List.map_flatMap, List.head?_flatMap]
      congr 1
      funext r
      cases s.lco.tiles[r] with
      | none => rfl
      | some tile =>
        simp only [Option.toList_some, List.findSome?_cons, List.findSome?_nil, hplace]
        generalize tile.shown.findSome? _ = place
        cases place <;> rfl
    rw [List.head?_flatMap, State.warpPlace, findSome?_filter_eq]
    simp only [hon]

end Sys2Proof.Machine
end

section
/-! Screen power (R161 to R163) and what a screen's darkness and standby do to its chain (R133, R134). -/

namespace Sys2Proof.Machine

variable {s t u : State} {scr : ScreenId}

/-! ### Darkness -/

theorem headLive_iff (s : State) (h : HeadId) : s.headLive h = true ↔
    ∃ c, s.lco.heads[h].owner = some c ∧ s.lco.heads[h].size ≠ none ∧ (s.comp c).port = .configured := by
  unfold State.headLive
  cases s.lco.heads[h].owner <;> simp [Option.isSome_iff_ne_none]

theorem recordLive_iff (s : State) (r : TileId) : s.recordLive r = true ↔
    ∃ tile, s.lco.tiles[r] = some tile ∧ ∃ shown ∈ tile.shown, s.headLive shown.2.2 = true := by
  unfold State.recordLive
  cases s.lco.tiles[r] <;> simp

/-- R161: a screen is dark where it is not always-on and no head its chain shows is live. -/
theorem dark_iff (s : State) (scr : ScreenId) : s.dark scr = true ↔ s.lco.screens[scr].alwaysOn = false ∧
    ∀ r ∈ s.lco.activeChain scr, ∀ tile, s.lco.tiles[r] = some tile → ∀ shown ∈ tile.shown, ∀ c,
      s.lco.heads[shown.2.2].owner = some c → s.lco.heads[shown.2.2].size ≠ none → (s.comp c).port ≠ .configured := by
  simp only [State.dark, Bool.and_eq_true, Bool.not_eq_true', List.any_eq_false, recordLive_iff, headLive_iff]
  refine and_congr_right fun _ => ⟨fun h r hr tile htile shown hshown c howner hsize hport => ?_, fun h r hr hlive => ?_⟩
  · exact h r hr ⟨tile, htile, shown, hshown, c, howner, hsize, hport⟩
  · obtain ⟨tile, htile, shown, hshown, c, howner, hsize, hport⟩ := hlive
    exact h r hr tile htile shown hshown c howner hsize hport

/-! ### Changes of power state -/

/-- R163: a power state that is not STANDBY is set and told. -/
theorem State.setPower_lit (s : State) (scr : ScreenId) {p : Power} (h : p.isStandby = false) : s.setPower scr p =
    { s with wpc := { s.wpc with power := s.wpc.power.set scr p }, clp := s.clp.queueNotice (.screenPower scr p s.wpc.power[scr]) } := by
  unfold State.setPower
  simp only [h, Bool.false_eq_true, if_false]
  rfl

/-- R124, R163: a screen that enters STANDBY shows no frame. -/
theorem State.setPower_standby (s : State) (scr : ScreenId) (forced : Bool) : s.setPower scr (.standby forced) =
    { s with
      wpc := { s.wpc with power := s.wpc.power.set scr (.standby forced) }
      clp := s.clp.queueNotice (.screenPower scr (.standby forced) s.wpc.power[scr])
      lco := s.lco.setScreen scr { s.lco.screens[scr] with drawn := none } } := rfl

theorem State.leaveStandbyIfLit_standby {forced : Bool} (hpower : s.wpc.power[scr] = .standby forced) (hdesk : s.wpc.desk ≠ .asleep) :
    s.leaveStandbyIfLit scr = if s.dark scr then s else s.setPower scr .active := by
  unfold State.leaveStandbyIfLit
  rw [State.power, hpower]
  cases s.dark scr <;> simp [Power.isStandby, hdesk]

/-! ### Nothing waits -/

/-- R133: no chain and no flip waits on a screen. -/
def State.Idle (s : State) (scr : ScreenId) : Prop :=
  s.lco.screens[scr].pending = none ∧ ∀ r ∈ s.lco.activeChain scr, ∀ tile, s.lco.tiles[r] = some tile → tile.flipWaits = false

theorem State.applyFlips_none (scr : ScreenId) {rs : List TileId} (s : State)
    (h : ∀ r ∈ rs, ∀ tile, s.lco.tiles[r] = some tile → tile.flipWaits = false) : State.applyFlips scr rs s = (s, false) := by
  induction rs with
  | nil => rfl
  | cons r rs ih =>
    have hone : s.applyFlip scr r = (s, false) := by
      unfold State.applyFlip
      split
      · next tile htile => exact if_neg (by rw [h r List.mem_cons_self tile htile]; nofun)
      · rfl
    simp only [State.applyFlips, hone, ih fun q hq => h q (List.mem_cons_of_mem _ hq), Bool.or_self]

theorem State.applyPending_none (h : s.lco.screens[scr].pending = none) (atOnce : Bool) : s.applyPending scr atOnce = (s, false) := by
  simp only [State.applyPending, h]

theorem State.applyWaiting_idle (h : s.Idle scr) (atOnce : Bool) : s.applyWaiting scr atOnce = (s, false) := by
  rw [State.applyWaiting, State.applyPending_none h.1]
  dsimp only
  rw [State.applyFlips_none scr s h.2]
  rfl

theorem State.applyAtOnce_idle (h : s.Idle scr) (re : State → State) : s.applyAtOnce re scr = s := by
  rw [State.applyAtOnce, State.applyWaiting_idle h]
  rfl

/-- The record of a screen that shows no frame any more has the same chains. -/
theorem Lco.draw_activeChain (l : Lco) (scr : ScreenId) (d : Option Image) :
    (l.setScreen scr { l.screens[scr] with drawn := d }).activeChain scr = l.activeChain scr ∧
    (l.setScreen scr { l.screens[scr] with drawn := d }).screens[scr].pending = l.screens[scr].pending := by
  unfold Lco.activeChain
  rw [setScreen_get, if_pos rfl]
  exact ⟨rfl, rfl⟩

theorem State.enterStandby_idle (h : s.Idle scr) (re : State → State) (forced : Bool) :
    s.enterStandby re scr forced = s.setPower scr (.standby forced) := by
  obtain ⟨hchain, hpending⟩ := s.lco.draw_activeChain scr none
  refine State.applyAtOnce_idle ⟨?_, ?_⟩ re
  · rw [State.setPower_standby]
    exact hpending.trans h.1
  · rw [State.setPower_standby]
    simp only [hchain]
    exact h.2

/-! ### A chain waits -/

/-- R133, step 1: the layout that a pending chain, applied, leaves. -/
def Lco.applied (l : Lco) (scr : ScreenId) (start : Option TileId) : Lco :=
  (l.setScreen scr { l.screens[scr] with active := start, pending := none }).clearFlips
    ((l.activeChain scr).filter (fun r => !(l.chain start).contains r))

theorem State.applyPending_some {start : Option TileId} (h : s.lco.screens[scr].pending = some start) (atOnce : Bool) :
    s.applyPending scr atOnce = ((s.setLco (s.lco.applied scr start)).notify (.chainApplied scr start atOnce), true) := by
  simp only [State.applyPending, h]
  rfl

theorem Lco.clearFlips_screens (l : Lco) (rs : List TileId) : (l.clearFlips rs).screens = l.screens := by
  unfold Lco.clearFlips
  induction rs generalizing l with
  | nil => rfl
  | cons r rs ih =>
    rw [List.foldl_cons, ih]
    split <;> rfl

theorem Lco.applied_screen (l : Lco) (scr : ScreenId) (start : Option TileId) :
    (l.applied scr start).screens[scr].active = start ∧ (l.applied scr start).screens[scr].pending = none := by
  unfold Lco.applied
  simp only [Lco.clearFlips_screens]
  rw [setScreen_get, if_pos rfl]
  exact ⟨rfl, rfl⟩

theorem State.applyFlips_screens (scr : ScreenId) (rs : List TileId) (s : State) :
    (State.applyFlips scr rs s).1.lco.screens = s.lco.screens ∧ (State.applyFlips scr rs s).1.wpc = s.wpc := by
  induction rs generalizing s with
  | nil => exact ⟨rfl, rfl⟩
  | cons r rs ih =>
    have hone : (s.applyFlip scr r).1.lco.screens = s.lco.screens ∧ (s.applyFlip scr r).1.wpc = s.wpc := by
      unfold State.applyFlip
      split
      · split <;> exact ⟨rfl, rfl⟩
      · exact ⟨rfl, rfl⟩
    exact ⟨(ih _).1.trans hone.1, (ih _).2.trans hone.2⟩

theorem State.leaveStandbyIfLit_screens (s : State) (scr : ScreenId) : (s.leaveStandbyIfLit scr).lco = s.lco ∧
    ((s.leaveStandbyIfLit scr).wpc.power[scr] = s.wpc.power[scr] ∨ (s.leaveStandbyIfLit scr).wpc.power[scr] = .active) := by
  unfold State.leaveStandbyIfLit
  split
  · rw [State.setPower_lit s scr rfl]
    exact ⟨rfl, .inr (by simp)⟩
  · exact ⟨rfl, .inl rfl⟩

theorem State.tellPointer_screens (h : s.ptu.dwell ≠ 0) (scr : ScreenId) :
    (s.tellPointer State.reevaluate scr).lco = s.lco ∧ (s.tellPointer State.reevaluate scr).wpc = s.wpc := by
  unfold State.tellPointer
  split
  · rw [State.reevaluate_of_dwell h, State.reevaluateCore_eq]
    exact ⟨rfl, rfl⟩
  · exact ⟨rfl, rfl⟩

/-- R134: a pending chain of a screen in STANDBY, applied at once, with what follows on. -/
theorem State.applyAtOnce_pending {start : Option TileId} {forced : Bool} (hpending : s.lco.screens[scr].pending = some start)
    (hpower : s.wpc.power[scr] = .standby forced) (hdwell : s.ptu.dwell ≠ 0) :
    let r := s.applyAtOnce State.reevaluate scr
    s.Shows r ∧ r.lco.screens[scr].active = start ∧ r.lco.screens[scr].pending = none ∧
      (r.wpc.power[scr] = .standby forced ∨ r.wpc.power[scr] = .active) ∧
      (s.clp.queueNotice (.chainApplied scr start true)).outbound <+: r.clp.outbound := by
  intro r
  let v := (s.setLco (s.lco.applied scr start)).notify (.chainApplied scr start true)
  let w := (State.applyFlips scr (v.lco.activeChain scr) v).1
  have happly : r = (w.leaveStandbyIfLit scr).tellPointer State.reevaluate scr := by
    simp only [r, State.applyAtOnce, State.applyWaiting, State.applyPending_some hpending, Bool.true_or, if_true]
    rfl
  have hflips := State.applyFlips_screens scr (v.lco.activeChain scr) v
  have hw : v.Shows (w.leaveStandbyIfLit scr) :=
    (State.shows_applyFlips scr _ v).trans (w.shows_leaveStandbyIfLit scr)
  have hdwell' : (w.leaveStandbyIfLit scr).ptu.dwell ≠ 0 := by rw [hw.dwell]; exact hdwell
  have htold := State.shows_tellPointer State.shows_reevaluate_if (w.leaveStandbyIfLit scr) scr hdwell'
  have hlit := w.leaveStandbyIfLit_screens scr
  have hlast := State.tellPointer_screens hdwell' scr
  have hscreens : r.lco.screens = (s.lco.applied scr start).screens := by
    rw [happly, hlast.1, hlit.1]
    exact hflips.1
  obtain ⟨hactive, hnone⟩ := s.lco.applied_screen scr start
  refine ⟨State.shows_applyAtOnce State.shows_reevaluate_if s scr hdwell, ?_, ?_, ?_, ?_⟩
  · rw [hscreens]; exact hactive
  · rw [hscreens]; exact hnone
  · have hsame : w.wpc.power[scr] = .standby forced := by rw [hflips.2]; exact hpower
    rw [happly, hlast.2, ← hsame]
    exact hlit.2
  · rw [happly]
    exact (hw.trans htold).outbound

/-! ### The hold deadline -/

theorem State.expireHold_darkHold {d : Time} (h : s.wpc.power[scr] = .darkHold d) :
    s.expireHold scr = if d ≤ s.clock then s.enterStandby State.reevaluate scr false else s := by
  simp only [State.expireHold, State.power, h, State.due, decide_eq_true_eq]

theorem State.expireHold_other (h : ∀ d, s.wpc.power[scr] ≠ .darkHold d) : s.expireHold scr = s := by
  unfold State.expireHold
  split
  · next d hd => exact absurd hd (h d)
  · rfl

/-- Settles O53, by the screen's power state and its darkness. -/
theorem darknessMovesThePowerState : Obligations.DarknessMovesThePowerState := by
  unfold Obligations.DarknessMovesThePowerState
  intro s scr screen power moved darkened idle re
  have hre : re = s.reevaluateScreen State.reevaluate scr := rfl
  have hdark := s.setPower_lit scr (p := .darkHold s.holdDeadline) rfl
  have hlit := s.setPower_lit scr (p := .active) rfl
  refine ⟨dark_iff s scr, fun hasleep => if_pos hasleep, fun hawake => ⟨fun hp hd => ?_, fun hp hd hhold => ?_, fun hp hd hhold hidle => ?_,
    fun d hp => ?_, fun f hp => ?_⟩, fun forced hp => ?_, fun hp => ?_, fun t => ⟨fun d hp => ⟨fun hearly => ?_, fun hdue =>
    ⟨fun hidle => ?_, fun start hpending hdwell => ?_⟩⟩, fun hp => ?_⟩⟩
  · simp only [hre, State.reevaluateScreen, if_neg hawake, State.power, show s.wpc.power[scr] = _ from hp, hd, Bool.false_eq_true,
      if_false]
  · simp only [hre, State.reevaluateScreen, if_neg hawake, State.power, show s.wpc.power[scr] = _ from hp, hd, if_true, if_neg hhold]
    exact hdark
  · simp only [hre, State.reevaluateScreen, if_neg hawake, State.power, show s.wpc.power[scr] = _ from hp, hd, if_true, hhold]
    exact State.enterStandby_idle hidle State.reevaluate false
  · simp only [hre, State.reevaluateScreen, if_neg hawake, State.power, show s.wpc.power[scr] = _ from hp]
    rw [hlit]
  · simp only [hre, State.reevaluateScreen, if_neg hawake, State.power, show s.wpc.power[scr] = _ from hp]
    rw [State.leaveStandbyIfLit_standby hp hawake, hlit]
  · simp only [State.leaveForced, State.power, show s.wpc.power[scr] = _ from hp]
    cases s.dark scr
    · exact hlit
    · simp only [Bool.not_true, Bool.false_eq_true, Bool.true_eq_false, if_false, Bool.and_eq_true, decide_eq_true_eq]
      split
      · exact hdark
      · rfl
  · unfold State.leaveForced
    split
    · next forced hforced => exact absurd hforced (hp forced)
    · rfl
  · exact congrArg Host.Outcome.next ((State.expireHold_darkHold (s := s.at t) hp).trans (if_neg (Nat.not_le.mpr hearly)))
  · refine congrArg Host.Outcome.next ((State.expireHold_darkHold (s := s.at t) hp).trans ((if_pos hdue).trans ?_))
    exact State.enterStandby_idle (s := s.at t) hidle State.reevaluate false
  · have hdarkened := (s.at t).setPower_standby scr false
    have hpending' : ((s.at t).setPower scr (.standby false)).lco.screens[scr].pending = some start := by
      rw [hdarkened]
      exact ((s.at t).lco.draw_activeChain scr none).2.trans hpending
    have hpower' : ((s.at t).setPower scr (.standby false)).wpc.power[scr] = .standby false := by
      rw [hdarkened]
      simp
    obtain ⟨hfollows, hactive, hnone, hpower, hout⟩ := State.applyAtOnce_pending hpending' hpower' (by rw [hdarkened]; exact hdwell)
    refine ⟨_, congrArg Host.Outcome.next ((State.expireHold_darkHold (s := s.at t) hp).trans (if_pos hdue)),
      (((s.at t).shows_setPower scr (.standby false)).trans hfollows).followsOn, hactive, hnone, fun d hd => ?_, ?_⟩
    · change (State.wpc (State.applyAtOnce State.reevaluate scr _)).power[scr] = _ at hd
      rw [hd] at hpower
      exact hpower.elim nofun nofun
    · rw [hdarkened] at hout
      exact hout
  · exact congrArg Host.Outcome.next (State.expireHold_other (s := s.at t) hp)

end Sys2Proof.Machine
end

section
/-! Desk sleep (R155 to R159): the codes handed to computers, the desk entering ASLEEP, and what stays while it is asleep. -/

namespace Sys2Proof.Machine

variable {s t u : State}

/-! ### The codes (R156, R158) -/

/-- A computer that has been handed a code and then NONE. -/
def Computer.coded (code : SystemCode) (r : Computer) : Computer := { r with queue := r.queue ++ [.system code, .system .none] }

theorem State.handSystem_room {c : Comp} (hport : (s.comp c).port.accepting = true) (hroom : (s.comp c).queue.length < 16)
    (code : SystemCode) : s.handSystem c code = s.setComp c { s.comp c with queue := (s.comp c).queue ++ [.system code] } := by
  unfold State.handSystem
  rw [Computer.takeSystem_of_room hport hroom]
  rfl

theorem State.handCode_room {c : Comp} (hport : (s.comp c).port.accepting = true) (hroom : (s.comp c).queue.length ≤ 14)
    (code : SystemCode) : State.handCode code s c = s.setComp c ((s.comp c).coded code) := by
  have hcomp : (s.setComp c { s.comp c with queue := (s.comp c).queue ++ [.system code] }).comp c =
      { s.comp c with queue := (s.comp c).queue ++ [.system code] } := State.comp_setComp_same s c _
  rw [State.handCode, State.handSystem_room hport (by omega), State.handSystem_room (by rw [hcomp]; exact hport)
    (by rw [hcomp]; simp; omega), hcomp]
  simp only [State.setComp, Vector.set_set, Computer.coded, List.append_assoc, List.cons_append, List.nil_append]

/-- R156, R158: the codes, where there is room for them. -/
theorem State.foldl_handCode_room (code : SystemCode) {l : List Comp} (hnodup : l.Nodup) (s : State)
    (h : ∀ c ∈ l, (s.comp c).port.accepting = true ∧ (s.comp c).queue.length ≤ 14) : ∃ cps,
    l.foldl (State.handCode code) s = { s with cps := cps } ∧
      ∀ c : Comp, cps[c] = if c ∈ l then (s.comp c).coded code else s.comp c := by
  induction l generalizing s with
  | nil => exact ⟨s.cps, rfl, fun _ => rfl⟩
  | cons d l ih =>
    obtain ⟨hport, hroom⟩ := h d List.mem_cons_self
    obtain ⟨hd, hnodup⟩ := List.nodup_cons.mp hnodup
    have hcomp (c : Comp) (hc : c ∈ l) : (s.setComp d ((s.comp d).coded code)).comp c = s.comp c :=
      State.comp_setComp_other s d c _ fun heq => hd (heq ▸ hc)
    obtain ⟨cps, heq, hcps⟩ := ih hnodup (s.setComp d ((s.comp d).coded code)) fun c hc => by
      rw [hcomp c hc]
      exact h c (List.mem_cons_of_mem _ hc)
    refine ⟨cps, ?_, fun c => ?_⟩
    · rw [List.foldl_cons, State.handCode_room hport hroom, heq]
      rfl
    · rw [hcps c, State.comp_setComp]
      by_cases hc : c = d
      · subst hc
        simp [hd]
      · simp [hc]

theorem notAsleep_congr (h : ∀ c : Comp, (t.comp c).port = (s.comp c).port) (set : CompSet) : t.notAsleep set = s.notAsleep set := by
  simp only [State.notAsleep, h]

theorem inSet_iff (set : CompSet) (c : Comp) : inSet set c = set.getLsbD c.val := rfl

theorem allComps_nodup : allComps.Nodup := by decide

/-- R158: a cancellation, where the computers told have room. -/
theorem State.cancelSleep_room (cause : DeskCause)
    (h : ∀ c : Comp, (s.wpc.awaited.getLsbD c.val && decide ((s.comp c).port = .configured)) = true → (s.comp c).queue.length ≤ 14) :
    ∃ cps, s.cancelSleep cause = { s with
        cps := cps
        wpc := { s.wpc with desk := .awake, awaited := 0, deskDeadline := none }
        clp := s.clp.queueNotice (.deskState .awake s.wpc.desk cause s.wpc.awaited (s.notAsleep s.wpc.awaited)) } ∧
      ∀ c : Comp, cps[c] = if s.wpc.awaited.getLsbD c.val && decide ((s.comp c).port = .configured)
        then (s.comp c).coded .wake else s.comp c := by
  have htold (c : Comp) : c ∈ allComps.filter (fun c => inSet s.wpc.awaited c && decide ((s.comp c).port = .configured)) ↔
      (s.wpc.awaited.getLsbD c.val && decide ((s.comp c).port = .configured)) = true := by
    rw [List.mem_filter]
    exact and_iff_right (mem_allComps c)
  obtain ⟨cps, heq, hcps⟩ := State.foldl_handCode_room .wake
    (allComps_nodup.filter (fun c => inSet s.wpc.awaited c && decide ((s.comp c).port = .configured)))
    (s.setWpc { s.wpc with deskDeadline := none }) fun c hc => by
      have hc := (htold c).mp hc
      have hport := (Bool.and_eq_true _ _ ▸ hc).2
      refine ⟨?_, h c hc⟩
      rw [State.comp_setWpc, of_decide_eq_true hport]
      rfl
  simp only [htold] at hcps
  have hports : State.notAsleep { s with cps := cps } s.wpc.awaited = s.notAsleep s.wpc.awaited := by
    refine notAsleep_congr (fun c => ?_) _
    have hc : State.comp { s with cps := cps } c = _ := hcps c
    rw [hc]
    split <;> rfl
  refine ⟨cps, ?_, hcps⟩
  rw [← hports]
  unfold State.cancelSleep
  exact congrArg (fun v : State => (v.setWpc { v.wpc with awaited := 0 }).setDesk .awake cause s.wpc.awaited) heq

/-! ### While the desk is asleep -/

/-- While the desk is ASLEEP, the WPC keeps everything but its wake attempts. -/
def State.SleepsOn (s t : State) : Prop := s.wpc.desk = .asleep → t.wpc = { s.wpc with wakes := t.wpc.wakes }

theorem State.SleepsOn.of_eq (h : t.wpc = s.wpc) : s.SleepsOn t := fun _ => by rw [h]

theorem State.SleepsOn.desk (h : s.SleepsOn t) (hasleep : s.wpc.desk = .asleep) : t.wpc.desk = .asleep := by
  rw [h hasleep]
  exact hasleep

theorem State.SleepsOn.trans (h : s.SleepsOn t) (k : t.SleepsOn u) : s.SleepsOn u := by
  intro hasleep
  rw [k (h.desk hasleep), h hasleep]

section
variable {re : State → State}

theorem State.reevaluateScreens_asleep (h : s.wpc.desk = .asleep) : s.reevaluateScreens re = s := by
  unfold State.reevaluateScreens
  induction allScreens with
  | nil => rfl
  | cons scr l ih =>
    rw [List.foldl_cons, State.reevaluateScreen, if_pos h]
    exact ih

theorem State.sleepsOn_deriveLeds (s : State) : s.SleepsOn s.deriveLeds := by
  obtain ⟨p, hp⟩ := s.deriveLeds_eq
  rw [hp]
  exact .of_eq rfl

theorem State.sleepsOn_endAttempt (s : State) (c : Comp) (result : WakeEnd) : s.SleepsOn (s.endAttempt c result) := by
  unfold State.endAttempt
  split
  · exact fun _ => rfl
  · exact .of_eq rfl

theorem State.sleepsOn_completionTest (s : State) : s.SleepsOn (s.completionTest re) := by
  intro hasleep
  rw [State.completionTest, if_neg fun h => by rw [hasleep] at h; exact nomatch h.1]

theorem State.sleepsOn_afterChange (s : State) (c : Comp) (old new : PortState) : s.SleepsOn (s.afterChange re c old new) := by
  have htold : s.SleepsOn (if old = .resuming
      then (s.notify (.portState c new old (s.comp c).remoteWake)).endAttempt c new.wakeEnd
      else s.notify (.portState c new old (s.comp c).remoteWake)) := by
    have hnotify : s.SleepsOn (s.notify (.portState c new old (s.comp c).remoteWake)) := .of_eq rfl
    split
    · exact hnotify.trans (State.sleepsOn_endAttempt _ c _)
    · exact hnotify
  unfold State.afterChange
  dsimp only
  generalize (if old = .resuming
      then (s.notify (.portState c new old (s.comp c).remoteWake)).endAttempt c new.wakeEnd
      else s.notify (.portState c new old (s.comp c).remoteWake)) = v at htold ⊢
  have htest : s.SleepsOn (if inSet v.wpc.awaited c then v.completionTest re else v) := by
    split
    · exact htold.trans (State.sleepsOn_completionTest v)
    · exact htold
  intro hasleep
  rw [State.reevaluateScreens_asleep (htest.desk hasleep)]
  exact (htest.trans (State.sleepsOn_deriveLeds _)) hasleep

theorem State.sleepsOn_wake (s : State) (c : Comp) (cause : WakeCause) : s.SleepsOn (s.wake re c cause) := by
  by_cases hport : (s.comp c).port = .suspended
  · cases hpermit : (s.comp c).remoteWake
    · rw [State.wake_refused re cause hport hpermit]
      exact .of_eq rfl
    · rw [State.wake_suspended re cause hport hpermit]
      generalize hv : s.setWpc { s.wpc with
          wakes := s.wpc.wakes.set c (some (WakeAttempt.mk cause s.clock (s.clock + s.wpc.wakeTimeout))) } = v
      have hset : s.SleepsOn v := by
        rw [← hv]
        exact fun _ => rfl
      have henter : v.SleepsOn (v.enterPort c .resuming) := by
        rw [enterPort_eq]
        exact .of_eq rfl
      unfold State.changePort
      dsimp only
      split
      · exact hset
      · exact hset.trans (henter.trans (State.sleepsOn_afterChange _ c _ _))
  · rw [State.wake_other re cause hport]
    exact .of_eq rfl
end

theorem State.sleepsOn_changeFocus (s : State) (c : Comp) (cause : FocusCause) : s.SleepsOn (s.changeFocus c cause) := by
  rw [State.changeFocus_eq]
  have hwritten : s.SleepsOn (s.written c cause) := .of_eq rfl
  have hwoken : (s.written c cause).SleepsOn ((s.written c cause).wokenFor c) := by
    unfold State.wokenFor
    split
    · exact State.sleepsOn_wake _ c .focus
    · exact .of_eq rfl
  have harrived : ((s.written c cause).wokenFor c).SleepsOn
      (((s.written c cause).wokenFor c).arrived c s.fcu.focus cause) := .of_eq rfl
  exact hwritten.trans (hwoken.trans (harrived.trans (State.sleepsOn_deriveLeds _)))

theorem State.sleepsOn_grant (s : State) (c : Comp) (cause : FocusCause) (forced : Bool) : s.SleepsOn (s.grant c cause forced) := by
  unfold State.grant
  split
  · dsimp only
    split
    · have hunlock : s.SleepsOn (s.setFcu { s.fcu with lock := s.lockOnLeavingHard }) := .of_eq rfl
      exact hunlock.trans (State.sleepsOn_changeFocus _ c cause)
    · exact s.sleepsOn_changeFocus c cause
  · exact .of_eq rfl
  · exact .of_eq rfl

theorem State.sleepsOn_requestFocus (s : State) (c : Comp) (cause : FocusCause) (forced : Bool) :
    s.SleepsOn (s.requestFocus c cause forced) := by
  unfold State.requestFocus
  split
  · refine (s.sleepsOn_grant c cause forced).trans ?_
    unfold State.takeDeferredGlide
    split
    · split
      · exact State.sleepsOn_grant _ _ _ _
      · exact .of_eq rfl
    · exact .of_eq rfl
  · exact .of_eq rfl
  · exact .of_eq rfl

theorem State.sleepsOn_reevaluate (s : State) : s.SleepsOn s.reevaluate := by
  have hcore : s.SleepsOn s.reevaluateCore := by
    rw [State.reevaluateCore_eq]
    exact .of_eq rfl
  unfold State.reevaluate
  split
  · exact hcore.trans (State.sleepsOn_requestFocus _ _ _ _)
  · exact hcore

/-! ### The desk entering ASLEEP (R157, R162) -/

/-- R162: a screen's power state as the desk enters ASLEEP. -/
def Power.atSleep : Power → Power
  | .standby forced => .standby forced
  | _ => .standby true

theorem Power.atSleep_atSleep (p : Power) : p.atSleep.atSleep = p.atSleep := by cases p <;> rfl

theorem Power.atSleep_of_standby {p : Power} (h : p.isStandby = true) : p.atSleep = p := by
  cases p
  case standby => rfl
  all_goals exact nomatch h

theorem Power.atSleep_of_not_standby {p : Power} (h : p.isStandby = false) : p.atSleep = .standby true := by
  cases p
  case standby => exact nomatch h
  all_goals rfl

theorem State.applyAtOnce_asleep (h : s.wpc.desk = .asleep) (scr : ScreenId) :
    s.SleepsOn (s.applyAtOnce State.reevaluate scr) := by
  let v := (s.applyPending scr true).1
  let w := (State.applyFlips scr (v.lco.activeChain scr) v).1
  have hv : v.wpc = s.wpc := by
    simp only [v, State.applyPending]
    split <;> rfl
  have hw : w.wpc = s.wpc := (State.applyFlips_screens scr _ v).2.trans hv
  have hstay : w.leaveStandbyIfLit scr = w := by
    unfold State.leaveStandbyIfLit
    rw [hw, h]
    simp
  have happly : s.applyAtOnce State.reevaluate scr =
      if (s.applyWaiting scr true).2 then (w.leaveStandbyIfLit scr).tellPointer State.reevaluate scr else w := rfl
  have hwaiting : s.SleepsOn w := .of_eq hw
  rw [happly, hstay]
  split
  · refine hwaiting.trans ?_
    unfold State.tellPointer
    split
    · exact w.sleepsOn_reevaluate
    · exact .of_eq rfl
  · exact hwaiting

theorem State.forceStandby_wpc (h : s.wpc.desk = .asleep) (scr : ScreenId) : ∃ wakes,
    (s.forceStandby State.reevaluate scr).wpc =
      { s.wpc with wakes := wakes, power := s.wpc.power.set scr s.wpc.power[scr].atSleep } := by
  unfold State.forceStandby
  cases hp : (s.power scr).isStandby with
  | true =>
    refine ⟨s.wpc.wakes, ?_⟩
    rw [Power.atSleep_of_standby (p := s.wpc.power[scr]) hp]
    simp
  | false =>
    refine ⟨(s.enterStandby State.reevaluate scr true).wpc.wakes, ?_⟩
    rw [Power.atSleep_of_not_standby (p := s.wpc.power[scr]) hp]
    exact State.applyAtOnce_asleep (s := s.setPower scr (.standby true)) h scr h

theorem State.foldl_forceStandby_wpc (l : List ScreenId) (s : State) (h : s.wpc.desk = .asleep) : ∃ wakes power,
    (l.foldl (State.forceStandby State.reevaluate) s).wpc = { s.wpc with wakes := wakes, power := power } ∧
      ∀ scr : ScreenId, power[scr] = if scr ∈ l then s.wpc.power[scr].atSleep else s.wpc.power[scr] := by
  induction l generalizing s with
  | nil => exact ⟨s.wpc.wakes, s.wpc.power, rfl, fun _ => rfl⟩
  | cons o l ih =>
    obtain ⟨wakes, hfirst⟩ := State.forceStandby_wpc h o
    obtain ⟨wakes', power, hrest, hpower⟩ := ih (s.forceStandby State.reevaluate o) (by rw [hfirst]; exact h)
    refine ⟨wakes', power, ?_, fun scr => ?_⟩
    · rw [List.foldl_cons, hrest, hfirst]
    · rw [hpower scr, hfirst]
      dsimp only
      by_cases ho : scr = o
      · subst ho
        simp [Power.atSleep_atSleep]
      · have hval : o.val ≠ scr.val := fun e => ho (Fin.ext e.symm)
        simp [ho, hval]

/-- The WPC as the desk has entered ASLEEP, and what the link still holds of the notices. -/
theorem State.enterAsleep_wpc (s : State) (cause : DeskCause) :
    let r := s.enterAsleep State.reevaluate cause
    r.wpc.desk = .asleep ∧ r.wpc.deskDeadline = none ∧ r.wpc.awaited = s.wpc.awaited ∧
    (∀ scr : ScreenId, r.wpc.power[scr] = s.wpc.power[scr].atSleep) ∧
    (s.clp.queueNotice (.deskState .asleep s.wpc.desk cause s.wpc.awaited (s.notAsleep s.wpc.awaited))).outbound <+: r.clp.outbound := by
  intro r
  let v := (s.setWpc { s.wpc with deskDeadline := none }).setDesk .asleep cause s.wpc.awaited
  obtain ⟨wakes, power, hwpc, hpower⟩ := State.foldl_forceStandby_wpc allScreens v rfl
  have hr : r.wpc = { v.wpc with wakes := wakes, power := power } := hwpc
  have hkept : v.Kept r := Moves.kept (moves_foldl (State.forceStandby_moves State.reevaluate_moves) allScreens v)
  rw [hr]
  refine ⟨rfl, rfl, rfl, fun scr => ?_, hkept.outbound⟩
  exact (hpower scr).trans (if_pos (mem_allScreens scr))

/-! ### DESK SLEEP and DESK WAKE -/

/-- R156: a desk sleep, from the computers that are asked and the state their codes leave. -/
theorem State.startSleep_of {set : CompSet} {v : State} (hset : s.sleepers = set)
    (hv : (allComps.filter (inSet set)).foldl (State.handCode .sleep) (s.setWpc { s.wpc with awaited := set }) = v) :
    s.startSleep = ((v.setWpc { v.wpc with deskDeadline := some (v.clock + v.wpc.sleepTimeout) }).setDesk
      .sleepRequested .request set).completionTest State.reevaluate := by
  subst hset hv
  rfl

/-- R156: whether a desk sleep asks a computer. -/
def Computer.asked (r : Computer) : Bool := decide (r.port = .configured) && r.sleepsWithDesk

theorem Computer.port_of_asked {r : Computer} (h : r.asked = true) : r.port = .configured :=
  of_decide_eq_true (Bool.and_eq_true _ _ ▸ h).1

theorem sleepers_eq {set : CompSet} (hset : ∀ c : Comp, set.getLsbD c.val = (s.comp c).asked) : s.sleepers = set :=
  BitVec.eq_of_getLsbD_eq fun i hi => (inSet_compSetOf _ ⟨i, hi⟩).trans (hset ⟨i, hi⟩).symm

/-- R155: the computers that a desk sleep asks are awake. -/
theorem notAsleep_asked {set : CompSet} (hset : ∀ c : Comp, set.getLsbD c.val = (s.comp c).asked) : s.notAsleep set = set := by
  refine BitVec.eq_of_getLsbD_eq fun i hi => (inSet_compSetOf _ ⟨i, hi⟩).trans ?_
  rw [inSet_iff]
  change (set.getLsbD i && _) = _
  cases hin : set.getLsbD i with
  | false => rw [Bool.false_and]
  | true =>
    rw [Computer.port_of_asked ((hset ⟨i, hi⟩).symm.trans hin)]
    rfl

/-- R156: the codes of a desk sleep, each computer asked having room for them. -/
theorem State.sleepCodes {set : CompSet} (hset : ∀ c : Comp, set.getLsbD c.val = (s.comp c).asked)
    (hroom : ∀ c : Comp, (s.comp c).asked = true → (s.comp c).queue.length ≤ 14) : ∃ cps,
    (allComps.filter (inSet set)).foldl (State.handCode .sleep) (s.setWpc { s.wpc with awaited := set }) =
      { s with cps := cps, wpc := { s.wpc with awaited := set } } ∧
      ∀ c : Comp, cps[c] = if (s.comp c).asked then (s.comp c).coded .sleep else s.comp c := by
  have hasked (c : Comp) : c ∈ allComps.filter (inSet set) ↔ (s.comp c).asked = true := by
    rw [List.mem_filter, inSet_iff, hset]
    exact and_iff_right (mem_allComps c)
  obtain ⟨cps, heq, hcps⟩ := State.foldl_handCode_room .sleep (allComps_nodup.filter (inSet set))
    (s.setWpc { s.wpc with awaited := set }) fun c hc => by
      have hc := (hasked c).mp hc
      refine ⟨?_, hroom c hc⟩
      rw [State.comp_setWpc, Computer.port_of_asked hc]
      rfl
  simp only [hasked] at hcps
  exact ⟨cps, heq, hcps⟩

/-- R156: a desk sleep that asks computers, each with room for the two codes. -/
theorem State.startSleep_asked {set : CompSet} (hset : ∀ c : Comp, set.getLsbD c.val = (s.comp c).asked)
    (hsome : ∃ c : Comp, (s.comp c).asked = true)
    (hroom : ∀ c : Comp, (s.comp c).asked = true → (s.comp c).queue.length ≤ 14) : ∃ cps,
    s.startSleep = { s with
        cps := cps
        wpc := { s.wpc with desk := .sleepRequested, awaited := set, deskDeadline := some (s.clock + s.wpc.sleepTimeout) }
        clp := s.clp.queueNotice (.deskState .sleepRequested s.wpc.desk .request set set) } ∧
      ∀ c : Comp, cps[c] = if (s.comp c).asked then (s.comp c).coded .sleep else s.comp c := by
  obtain ⟨cps, hcodes, hcps⟩ := State.sleepCodes hset hroom
  have hports {v : State} (hv : v.cps = cps) : v.notAsleep set = set := by
    refine (notAsleep_congr (s := s) (fun c => ?_) set).trans (notAsleep_asked hset)
    have hc : v.comp c = _ := (congrArg (fun w : Vector Computer 8 => w[c]) hv).trans (hcps c)
    rw [hc]
    split <;> rfl
  have hasked : set ≠ 0 := by
    rintro rfl
    obtain ⟨c, hc⟩ := hsome
    have hbit := hset c
    rw [hc] at hbit
    simp at hbit
  refine ⟨cps, ?_, hcps⟩
  rw [State.startSleep_of (sleepers_eq hset) hcodes, (State.completionTest_eq State.reevaluate _).2]
  · unfold State.setDesk State.setWpc
    rw [hports (by rfl)]
    rfl
  · rintro ⟨-, hzero⟩
    exact hasked ((hports rfl).symm.trans hzero)

/-- R156, R157: a desk sleep with no computer to ask. -/
theorem State.startSleep_none (h : ∀ c : Comp, (s.comp c).asked = false) :
    ∃ v : State, s.startSleep = v.enterAsleep State.reevaluate .allAsleep ∧
      v.wpc = { s.wpc with desk := .sleepRequested, awaited := 0, deskDeadline := some (s.clock + s.wpc.sleepTimeout) } := by
  have hsleepers : s.sleepers = 0 := (compSetOf_eq_zero_iff _).mpr h
  have hnone : allComps.filter (inSet 0) = [] := by decide
  have hout : ∀ c : Comp, inSet 0 c = false := by decide
  refine ⟨(s.setWpc { s.wpc with awaited := 0, deskDeadline := some (s.clock + s.wpc.sleepTimeout) }).setDesk
    .sleepRequested .request 0, ?_, rfl⟩
  rw [State.startSleep_of hsleepers (by rw [hnone])]
  exact (State.completionTest_eq State.reevaluate _).1 rfl ((compSetOf_eq_zero_iff _).mpr fun c =>
    (congrArg (· && _) (hout c)).trans (Bool.false_and _))

theorem State.wakeDesk_eq (s : State) (cause : DeskCause) : s.wakeDesk cause = allScreens.foldl State.leaveForced { s with
    wpc := { s.wpc with desk := .awake, awaited := 0 }
    clp := s.clp.queueNotice (.deskState .awake s.wpc.desk cause s.wpc.awaited (s.notAsleep s.wpc.awaited)) } := rfl

theorem State.wakeDesk_awake (s : State) (cause : DeskCause) : (s.wakeDesk cause).wpc.desk = .awake := by
  rw [State.wakeDesk_eq]
  have hfollows := State.shows_foldl (D := fun _ => True) (fun v scr => (State.shows_leaveForced v scr).always) allScreens
    { s with
      wpc := { s.wpc with desk := .awake, awaited := 0 }
      clp := s.clp.queueNotice (.deskState .awake s.wpc.desk cause s.wpc.awaited (s.notAsleep s.wpc.awaited)) } trivial
  rw [hfollows.wpc]

theorem State.expireDesk_requested {d : Time} (hdesk : s.wpc.desk = .sleepRequested) (hdeadline : s.wpc.deskDeadline = some d) :
    s.expireDesk = if d ≤ s.clock then s.enterAsleep State.reevaluate .timeout else s := by
  simp only [State.expireDesk, hdesk, hdeadline, State.due, decide_eq_true_eq]

theorem State.expireDesk_other (h : s.wpc.desk ≠ .sleepRequested ∨ s.wpc.deskDeadline = none) : s.expireDesk = s := by
  unfold State.expireDesk
  split
  · next hdesk hdeadline => exact absurd h (by simp [hdesk, hdeadline])
  · rfl

/-- Settles O52. -/
theorem deskSleepsAndWakes : Obligations.DeskSleepsAndWakes := by
  unfold Obligations.DeskSleepsAndWakes
  refine ⟨fun t s tag rest hasks => ?sleep, fun t s tag rest hasks => ?wake, fun t s => ⟨fun d hdesk hdeadline => ?_, fun h => ?_⟩,
    fun s cause => ?enter⟩
  case sleep =>
    intro asked
    refine ⟨fun hdesk => ?_, fun hdesk hnone => ?_, fun set hset hdesk hsome hroom => ?_⟩
    · refine requestDeskSleep_keeps.exec_asks hasks (rep := .bare .wrongState) ?_
      rw [requestDeskSleep, if_neg (by simp), State.at_wpc, if_neg hdesk]
    · obtain ⟨v, hstart, hv⟩ := State.startSleep_none (s := s.at t) hnone
      obtain ⟨hasleep, hdeadline, hawaited, hpower, -⟩ := v.enterAsleep_wpc .allAsleep
      rw [← hstart] at hasleep hdeadline hawaited hpower
      have hkept := Moves.kept (State.startSleep_moves (A := []) (s := s.at t))
      have hexec : exec (.deskSleep t) s = .next ((s.at t).startSleep.answered 0x13 tag rest [0, 2]) := by
        refine requestDeskSleep_keeps.exec_asks hasks (rep := .okWith [2]) ?_
        rw [requestDeskSleep, if_neg (by simp), State.at_wpc, if_pos hdesk, hasleep]
        rfl
      obtain ⟨q, hq⟩ := hkept.outbound
      refine ⟨_, hexec, hasleep, ?_, hdeadline, hkept.diu, hkept.hks, hkept.rules, fun scr => ?_, rfl, q, ?_⟩
      · refine hawaited.trans ?_
        rw [hv]
      · refine (hpower scr).trans ?_
        rw [hv]
        change s.wpc.power[scr].atSleep = _
        cases s.wpc.power[scr] <;> rfl
      · change (s.at t).startSleep.clp.outbound ++ _ = _
        rw [← hq]
        rfl
    · obtain ⟨cps, hstart, hcps⟩ := State.startSleep_asked (s := s.at t) hset hsome hroom
      refine ⟨cps, requestDeskSleep_keeps.exec_asks hasks (rep := .okWith [1]) ?_, hcps⟩
      rw [requestDeskSleep, if_neg (by simp), State.at_wpc, if_pos hdesk, hstart]
      simp only [State.at_wpc, hdesk]
      rfl
  case wake =>
    intro told woken
    refine ⟨fun hdesk => ?_, fun hdesk => ?_, fun hdesk hroom => ?_⟩
    · refine requestDeskWake_keeps.exec_asks hasks (rep := .okWith [0]) ?_
      have hhost : (s.at t).hostDeskWake = s.at t := by simp only [State.hostDeskWake, State.at_wpc, hdesk]
      rw [requestDeskWake, if_neg (by simp), hhost, State.at_wpc, hdesk]
      rfl
    · refine requestDeskWake_keeps.exec_asks hasks (rep := .okWith [0]) ?_
      have hwoken : woken (s.at t) = { s.at t with
          wpc := { (s.at t).wpc with desk := .awake, awaited := 0 }
          clp := (s.at t).clp.queueNotice (.deskState .awake (s.at t).wpc.desk .hostWake (s.at t).wpc.awaited
            ((s.at t).notAsleep (s.at t).wpc.awaited)) } := by
        simp only [woken, if_pos hdesk]
        rfl
      have hhost : (s.at t).hostDeskWake = allScreens.foldl State.leaveForced (woken (s.at t)) := by
        rw [hwoken, ← State.wakeDesk_eq]
        simp only [State.hostDeskWake, State.at_wpc, hdesk]
      have hawake : (s.at t).hostDeskWake.wpc.desk = .awake := by
        rw [hhost, hwoken, ← State.wakeDesk_eq]
        exact State.wakeDesk_awake _ _
      rw [requestDeskWake, if_neg (by simp), hawake, hhost]
      rfl
    · obtain ⟨cps, hcancel, hcps⟩ := State.cancelSleep_room (s := s.at t) .hostWake hroom
      rw [State.at_wpc, hdesk] at hcancel
      refine ⟨cps, requestDeskWake_keeps.exec_asks hasks (rep := .okWith [0]) ?_, hcps⟩
      have hhost : (s.at t).hostDeskWake = (s.at t).cancelSleep .hostWake := by
        simp only [State.hostDeskWake, State.at_wpc, hdesk]
      rw [requestDeskWake, if_neg (by simp), hhost, hcancel]
      simp only [woken, hdesk, reduceCtorEq, if_false]
      rfl
  case enter =>
    obtain ⟨hasleep, hdeadline, hawaited, hpower, hout⟩ := s.enterAsleep_wpc cause
    refine ⟨hasleep, hdeadline, hawaited, fun scr => (hpower scr).trans ?_, hout⟩
    cases s.wpc.power[scr] <;> rfl
  · exact congrArg Host.Outcome.next (State.expireDesk_requested (s := s.at t) hdesk hdeadline)
  · exact congrArg Host.Outcome.next (State.expireDesk_other (s := s.at t) h)

end Sys2Proof.Machine
end

section
/-! Reports of the desk ports (R6 to R10): a report's events one at a time, and what a device's detach hands on (R4, R12). -/

namespace Sys2Proof.Machine

variable {s t u : State}

/-! ### What an event handed on leaves -/

theorem Move.clock_eq {A : List Tag} (h : Move A s t) (hclock : .clock ∉ A) : t.clock = s.clock := by
  cases h with
  | warp c => obtain ⟨x, y, fx, fy, hw⟩ := s.warp_frame c; rw [hw]; rfl
  | held l => obtain ⟨cps, heq⟩ := s.setHeld_eq l; rw [heq]
  | release f => obtain ⟨cps, heq⟩ := s.releaseKeys_eq f; rw [heq]
  | port c new => obtain ⟨clp, heq⟩ := portMove_eq c new s; rw [heq, enterPort_eq]
  | wake c a hport => obtain ⟨clp, heq⟩ := State.wakeMove_eq c a hport; rw [heq]
  | place scr pl =>
    obtain ⟨p, hp⟩ := State.keepPointer_frame (s.setLco (s.lco.place scr pl))
    rw [hp]; rfl
  | clock t h => exact absurd h hclock
  | _ => rfl

theorem Moves.clock_eq {A : List Tag} (h : Moves A s t) (hclock : .clock ∉ A) : t.clock = s.clock := by
  induction h with
  | refl => rfl
  | tail _ hmove ih => exact (hmove.clock_eq hclock).trans ih

/-- The desk ports and the clock, which no block behind the DIU changes. -/
def State.SameDesk (s t : State) : Prop := t.diu = s.diu ∧ t.clock = s.clock

theorem State.SameDesk.trans (h : s.SameDesk t) (k : t.SameDesk u) : s.SameDesk u := ⟨k.1.trans h.1, k.2.trans h.2⟩

theorem Moves.sameDesk {A : List Tag} (h : Moves A s t) (hdesk : .desk ∉ A) (hreset : .reset ∉ A) (hclock : .clock ∉ A) :
    s.SameDesk t :=
  ⟨h.diu hdesk hreset, h.clock_eq hclock⟩

theorem State.takeMotion_sameDesk (s : State) (dx dy : Int) : s.SameDesk (s.takeMotion dx dy) := by
  have hre : State.SameDesk s (s.setPtu (s.moved dx dy)).reevaluate :=
    State.SameDesk.trans ⟨rfl, rfl⟩ ((State.reevaluate_moves (A := []) _).sameDesk nofun nofun nofun)
  rw [State.takeMotion_eq]
  split
  · exact hre.trans ((State.motionReport_moves (A := [])).sameDesk nofun nofun nofun)
  · exact hre

theorem State.handOn_sameDesk (e : DeskEvent) (s : State) : s.SameDesk (s.handOn e) := by
  have hgate : s.SameDesk (s.gate e).1 := (State.gate_moves (A := []) e).sameDesk nofun nofun nofun
  unfold State.handOn
  split
  case h_1 v heq =>
    rw [heq] at hgate
    refine hgate.trans ?_
    have hkeys {w : State} (h : Moves [.keys, .lock, .preset] v w) : v.SameDesk w := h.sameDesk (by decide) (by decide) (by decide)
    cases e with
    | keyMake p k => exact hkeys (State.takeKeyMake_moves (by decide) (by decide) (by decide) p k)
    | keyBreak p k => exact hkeys (State.takeKeyBreak_moves (by decide) (by decide) (by decide) p k)
    | buttonMake p b => exact hkeys (State.takeButtonMake_moves p b)
    | buttonBreak p b => exact hkeys (State.takeButtonBreak_moves p b)
    | motion p dx dy => exact v.takeMotion_sameDesk dx dy
    | wheel p amount => exact hkeys (State.reportToFocus_moves amount)
  case h_2 v heq =>
    rw [heq] at hgate
    exact hgate

theorem State.at_of_clock {t : Time} {v : State} (h : v.clock = max s.clock t) : v.at t = v := by
  have hclock : max v.clock t = v.clock := by rw [h, max_assoc, max_self]
  unfold State.at
  rw [hclock]

theorem State.setDeskPort_self {p : DeskPortId} {d : DeskPort} (h : s.diu[p] = d) : s.setDeskPort p d = s := by
  have hset : s.diu.set p d = s.diu := by rw [← h]; exact Vector.set_getElem_self p.isLt
  unfold State.setDeskPort
  rw [hset]

theorem State.setDeskPort_port (p : DeskPortId) (d : DeskPort) (s : State) : (s.setDeskPort p d).diu[p] = d :=
  Vector.getElem_set_self p.isLt

/-! ### The reduction of a keyboard report (R6) -/

/-- A key list that a reduced report can hold: at most six keys, none twice, no error slot and no modifier. -/
def CleanKeys (list : List Byte) : Prop := list.length ≤ 6 ∧ list.Nodup ∧ ∀ u ∈ list, 4 ≤ u ∧ isModifier u = false

/-- The bytes of the report that reduces to a modifier set and a clean key list. -/
def reportBytes (m : Byte) (list : List Byte) : List Byte := m :: 0 :: (list ++ List.replicate (6 - list.length) 0)

theorem isErrorSlot_iff (u : Byte) : isErrorSlot u = true ↔ 1 ≤ u ∧ u ≤ 3 := by
  simp only [isErrorSlot, Bool.and_eq_true, decide_eq_true_eq]

theorem reduceKeys_short {bytes : List Byte} (h : bytes.length < 8) : reduceKeys bytes = none := by
  unfold reduceKeys
  split
  · simp only [List.length_cons] at h
    omega
  · rfl

theorem reduceKeys_six (m reserved : Byte) {slots : List Byte} (hsix : slots.length = 6) (more : List Byte) :
    reduceKeys (m :: reserved :: (slots ++ more)) = if slots.any isErrorSlot then none
      else some { mods := m, keys := (slots.filter (fun u => decide (u ≠ 0) && !isModifier u)).eraseDups } := by
  obtain ⟨k0, k1, k2, k3, k4, k5, rfl⟩ : ∃ k0 k1 k2 k3 k4 k5 : Byte, slots = [k0, k1, k2, k3, k4, k5] := by
    match slots, hsix with
    | [k0, k1, k2, k3, k4, k5], _ => exact ⟨k0, k1, k2, k3, k4, k5, rfl⟩
  rfl

theorem eraseDups_of_nodup {l : List Byte} (h : l.Nodup) : l.eraseDups = l := by
  induction l with
  | nil => rfl
  | cons u l ih =>
    obtain ⟨hu, hl⟩ := List.nodup_cons.mp h
    have hfilter : l.filter (fun v => !v == u) = l := List.filter_eq_self.mpr fun v hv => by
      have hne : v ≠ u := fun he => hu (he ▸ hv)
      simp [hne]
    rw [List.eraseDups_cons, hfilter, ih hl]

theorem reduceKeys_reportBytes (m : Byte) {list : List Byte} (h : CleanKeys list) :
    reduceKeys (reportBytes m list) = some { mods := m, keys := list } := by
  obtain ⟨hsix, hnodup, hkeys⟩ := h
  have hslots : (list ++ List.replicate (6 - list.length) (0 : Byte)).length = 6 := by
    rw [List.length_append, List.length_replicate]
    omega
  have hclear : (list ++ List.replicate (6 - list.length) (0 : Byte)).any isErrorSlot = false := by
    rw [List.any_eq_false]
    intro u hu
    rw [isErrorSlot_iff]
    rcases List.mem_append.mp hu with hin | hpad
    · have hfour := (hkeys u hin).1
      bv_omega
    · rw [List.eq_of_mem_replicate hpad]
      decide
  have hkept : list.filter (fun u => decide (u ≠ 0) && !isModifier u) = list := List.filter_eq_self.mpr fun u hu => by
    obtain ⟨hfour, hmod⟩ := hkeys u hu
    have hne : decide (u ≠ 0) = true := decide_eq_true (by bv_omega)
    rw [hne, hmod]
    rfl
  have hpadding : (List.replicate (6 - list.length) (0 : Byte)).filter (fun u => decide (u ≠ 0) && !isModifier u) = [] :=
    List.filter_eq_nil_iff.mpr fun u hu => by simp [List.eq_of_mem_replicate hu]
  have hreduce := reduceKeys_six m 0 hslots []
  rw [List.append_nil, hclear, List.filter_append, hkept, hpadding, List.append_nil, eraseDups_of_nodup hnodup] at hreduce
  exact hreduce

/-! ### Sets of bits in ascending order -/

theorem modifierList_lowest (w : Byte) (k : Fin 8) (hk : w.getLsbD k.val = true) (hlow : ∀ j < k, w.getLsbD j.val = false) :
    modifierList w = (0xE0 + byte k.val) :: modifierList (w &&& ~~~ (1#8 <<< k.val)) := by
  revert hk hlow k w
  decide

theorem modifierList_unchanged (m : Byte) : modifierList (m &&& ~~~ m) = [] := by
  rw [BitVec.and_not_self]
  rfl

theorem isModifier_byte : ∀ k : Fin 8, isModifier (0xE0 + byte k.val) = true ∧ modifierBit (0xE0 + byte k.val) = 1#8 <<< k.val := by
  decide

theorem getLsbD_bit {n : Nat} (k i : Fin n) : (1#n <<< k.val).getLsbD i.val = decide (i = k) := by
  rw [← BitVec.twoPow_eq, BitVec.getLsbD_twoPow, decide_eq_true k.isLt, Bool.true_and, decide_eq_decide, Fin.ext_iff]
  exact eq_comm

/-- A bit that a set does not hold can be taken from another without changing what the first has over it. -/
theorem and_not_of_clear {n : Nat} {m mods : BitVec n} {k : Fin n} (hk : m.getLsbD k.val = false) :
    m &&& ~~~ (mods &&& ~~~ (1#n <<< k.val)) = m &&& ~~~ mods := by
  refine BitVec.eq_of_getLsbD_eq fun i hi => ?_
  have hbit := getLsbD_bit k ⟨i, hi⟩
  by_cases he : (⟨i, hi⟩ : Fin n) = k
  · rw [BitVec.getLsbD_and, BitVec.getLsbD_and, show i = k.val from congrArg Fin.val he, hk, Bool.false_and, Bool.false_and]
  · rw [decide_eq_false he] at hbit
    simp only [BitVec.getLsbD_and, BitVec.getLsbD_not, hbit, Bool.not_false, Bool.and_true, hi, decide_true, Bool.true_and]

/-- A bit that a set holds can be added below it. -/
theorem or_and_not_of_set {n : Nat} {m mods : BitVec n} {k : Fin n} (hk : m.getLsbD k.val = true) (h : mods &&& ~~~ m = 0) :
    (mods ||| 1#n <<< k.val) &&& ~~~ m = 0 := by
  have hbit : (1#n <<< k.val) &&& ~~~ m = 0 := BitVec.eq_of_getLsbD_eq fun i hi => by
    have hone := getLsbD_bit k ⟨i, hi⟩
    by_cases he : (⟨i, hi⟩ : Fin n) = k
    · simp [show i = k.val from congrArg Fin.val he, hk]
    · rw [decide_eq_false he] at hone
      rw [BitVec.getLsbD_and, hone, Bool.false_and]
      exact BitVec.getLsbD_zero.symm
  rw [BitVec.and_comm, BitVec.and_or_distrib_left, BitVec.and_comm, h, BitVec.and_comm, hbit]
  exact BitVec.or_self

theorem getLsbD_and_not {n : Nat} {m mods : BitVec n} {k : Fin n} (h : (mods &&& ~~~ m).getLsbD k.val = true) :
    mods.getLsbD k.val = true ∧ m.getLsbD k.val = false := by
  simpa [k.isLt] using h

/-! ### The keys of one list that another has not -/

theorem missing_nil {keys new : List Byte} (h : ∀ k ∈ keys, k ∈ new) : keys.filter (fun u => !new.contains u) = [] :=
  List.filter_eq_nil_iff.mpr fun k hk => by simp [h k hk]

theorem missing_first {before after new : List Byte} {u : Byte} (hbefore : ∀ k ∈ before, k ∈ new) (hu : u ∉ new) :
    (before ++ u :: after).filter (fun u => !new.contains u) = u :: (before ++ after).filter (fun u => !new.contains u) := by
  rw [List.filter_append, List.filter_append, missing_nil hbefore, List.nil_append, List.nil_append,
    List.filter_cons_of_pos (by simp [hu])]

theorem missing_congr {keys new new' : List Byte} (h : ∀ k ∈ keys, (k ∈ new ↔ k ∈ new')) :
    keys.filter (fun u => !new.contains u) = keys.filter (fun u => !new'.contains u) :=
  List.filter_congr fun k hk => by
    have hiff := h k hk
    by_cases hin : k ∈ new
    · simp [hin, hiff.mp hin]
    · simp [hin, mt hiff.mpr hin]

/-! ### Key events -/

theorem State.keyBreak_desk (p : DeskPortId) (s : State) (u : Byte) :
    (s.setDeskPort p (s.diu[p].release u)).SameDesk (State.keyBreak p s u) := State.handOn_sameDesk _ _

theorem State.keyMake_desk (p : DeskPortId) (slots : List Byte) (s : State) (u : Byte) :
    (s.setDeskPort p (s.diu[p].press slots u)).SameDesk (State.keyMake p slots s u) := State.handOn_sameDesk _ _

/-- A make's key slots matter only for the place of its key. -/
theorem State.keyMake_slots {p : DeskPortId} {slots slots' : List Byte} {u : Byte}
    (h : s.diu[p].press slots u = s.diu[p].press slots' u) : State.keyMake p slots s u = State.keyMake p slots' s u := by
  unfold State.keyMake
  rw [h]

theorem DeskPort.release_key {mods u : Byte} {before after : List Byte} (hu : isModifier u = false) (hb : u ∉ before)
    (ha : u ∉ after) : (DeskPort.keyboard mods (before ++ u :: after)).release u = .keyboard mods (before ++ after) := by
  have hkeep {l : List Byte} (h : u ∉ l) : l.filter (fun k => decide (k ≠ u)) = l :=
    List.filter_eq_self.mpr fun k hk => decide_eq_true fun he => h (he ▸ hk)
  have hfilter : (before ++ u :: after).filter (fun k => decide (k ≠ u)) = before ++ after := by
    rw [List.filter_append, List.filter_cons_of_neg (by simp), hkeep hb, hkeep ha]
  rw [DeskPort.release, if_neg (by rw [hu]; exact Bool.false_ne_true), hfilter]

theorem DeskPort.press_key {mods u : Byte} {before after : List Byte} (slots : List Byte) (hu : isModifier u = false)
    (hslot : slots.idxOf u = before.length) :
    (DeskPort.keyboard mods (before ++ after)).press slots u = .keyboard mods (before ++ u :: after) := by
  rw [DeskPort.press, if_neg (by rw [hu]; exact Bool.false_ne_true), addInSlot, hslot, List.take_left, List.drop_left]

theorem idxOf_first {before after : List Byte} {u : Byte} (h : u ∉ before) : (before ++ u :: after).idxOf u = before.length := by
  rw [List.idxOf_append_of_notMem h, List.idxOf_cons_self, Nat.add_zero]

theorem DeskPort.release_modifier (mods : Byte) (keys : List Byte) (k : Fin 8) :
    (DeskPort.keyboard mods keys).release (0xE0 + byte k.val) = .keyboard (mods &&& ~~~ (1#8 <<< k.val)) keys := by
  obtain ⟨hmod, hbit⟩ := isModifier_byte k
  rw [DeskPort.release, if_pos hmod, hbit]

theorem DeskPort.press_modifier (mods : Byte) (keys slots : List Byte) (k : Fin 8) :
    (DeskPort.keyboard mods keys).press slots (0xE0 + byte k.val) = .keyboard (mods ||| (1#8 <<< k.val)) keys := by
  obtain ⟨hmod, hbit⟩ := isModifier_byte k
  rw [DeskPort.press, if_pos hmod, hbit]

/-! ### A keyboard report, one event at a time (R7, R8) -/

section
variable {p : DeskPortId} {mods m : Byte} {keys new before after : List Byte} {u : Byte}

/-- A report that the events before it have made the previous report of makes none. -/
theorem State.takeKeyReport_same (hkeys : ∀ k ∈ keys, k ∈ new) (hnew : ∀ k ∈ new, k ∈ keys) :
    s.takeKeyReport p m keys { mods := m, keys := new } = s.setDeskPort p (.keyboard m new) := by
  simp only [State.takeKeyReport, missing_nil hkeys, missing_nil hnew, modifierList_unchanged, List.foldl_nil]

theorem State.takeKeyReport_breaks_key (hbefore : ∀ k ∈ before, k ∈ new) (hu : u ∉ new) :
    s.takeKeyReport p mods (before ++ u :: after) { mods := m, keys := new } =
      (State.keyBreak p s u).takeKeyReport p mods (before ++ after) { mods := m, keys := new } := by
  have hmakes : new.filter (fun v => !(before ++ u :: after).contains v) = new.filter (fun v => !(before ++ after).contains v) :=
    missing_congr fun v hv => by
      have hne : v ≠ u := fun he => hu (he ▸ hv)
      simp [hne]
  simp only [State.takeKeyReport, missing_first hbefore hu, hmakes, List.foldl_cons]

theorem State.takeKeyReport_breaks_modifier (k : Fin 8) (hkeys : ∀ v ∈ keys, v ∈ new)
    (hk : (mods &&& ~~~ m).getLsbD k.val = true) (hlow : ∀ j < k, (mods &&& ~~~ m).getLsbD j.val = false) :
    s.takeKeyReport p mods keys { mods := m, keys := new } =
      (State.keyBreak p s (0xE0 + byte k.val)).takeKeyReport p (mods &&& ~~~ (1#8 <<< k.val)) keys { mods := m, keys := new } := by
  have hbreaks : mods &&& ~~~ m &&& ~~~ (1#8 <<< k.val) = mods &&& ~~~ (1#8 <<< k.val) &&& ~~~ m := by
    rw [BitVec.and_assoc, BitVec.and_comm (~~~ m), BitVec.and_assoc]
  have hmakes : m &&& ~~~ (mods &&& ~~~ (1#8 <<< k.val)) = m &&& ~~~ mods := and_not_of_clear (getLsbD_and_not hk).2
  simp only [State.takeKeyReport, missing_nil hkeys, modifierList_lowest _ k hk hlow, hbreaks, hmakes, List.foldl_cons,
    List.foldl_nil]

theorem State.takeKeyReport_makes_modifier (k : Fin 8) (hkeys : ∀ v ∈ keys, v ∈ new) (hbroken : mods &&& ~~~ m = 0)
    (hk : (m &&& ~~~ mods).getLsbD k.val = true) (hlow : ∀ j < k, (m &&& ~~~ mods).getLsbD j.val = false) :
    s.takeKeyReport p mods keys { mods := m, keys := new } =
      (State.keyMake p new s (0xE0 + byte k.val)).takeKeyReport p (mods ||| (1#8 <<< k.val)) keys { mods := m, keys := new } := by
  have hbreaks : (mods ||| (1#8 <<< k.val)) &&& ~~~ m = 0 := or_and_not_of_set (getLsbD_and_not hk).1 hbroken
  have hmakes : m &&& ~~~ mods &&& ~~~ (1#8 <<< k.val) = m &&& ~~~ (mods ||| (1#8 <<< k.val)) := by
    rw [BitVec.not_or, BitVec.and_assoc]
  simp only [State.takeKeyReport, missing_nil hkeys, hbroken, hbreaks, modifierList_lowest _ k hk hlow, hmakes, List.foldl_cons,
    List.foldl_nil, show modifierList 0 = [] from rfl]

theorem State.takeKeyReport_makes_key {keys' : List Byte} (hkeys : ∀ v ∈ keys, v ∈ before ++ u :: after)
    (hbefore : ∀ k ∈ before, k ∈ keys) (hu : u ∉ keys) (hkeys' : ∀ v, v ∈ keys' ↔ v = u ∨ v ∈ keys) (hafter : u ∉ after) :
    s.takeKeyReport p m keys { mods := m, keys := before ++ u :: after } =
      (State.keyMake p (before ++ u :: after) s u).takeKeyReport p m keys' { mods := m, keys := before ++ u :: after } := by
  have hnew (v : Byte) (hv : v ∈ keys') : v ∈ before ++ u :: after := by
    rcases (hkeys' v).mp hv with rfl | hin
    · exact List.mem_append_right _ List.mem_cons_self
    · exact hkeys v hin
  have hrest : (before ++ after).filter (fun v => !keys.contains v) = (before ++ after).filter (fun v => !keys'.contains v) :=
    missing_congr fun v hv => by
      have hne : v ≠ u := by
        rintro rfl
        exact (List.mem_append.mp hv).elim (fun h => hu (hbefore v h)) hafter
      rw [hkeys' v]
      exact ⟨.inr, fun h => h.resolve_left hne⟩
  have hthere : (before ++ u :: after).filter (fun v => !keys'.contains v) = (before ++ after).filter (fun v => !keys'.contains v) := by
    rw [List.filter_append, List.filter_append, List.filter_cons_of_neg (by simp [(hkeys' u).mpr (.inl rfl)])]
  simp only [State.takeKeyReport, missing_nil hkeys, missing_nil hnew, modifierList_unchanged, missing_first hbefore hu, hrest,
    hthere, List.foldl_cons, List.foldl_nil]

/-! A report of one event. -/

theorem State.takeKeyReport_one_break (hport : s.diu[p] = .keyboard mods (before ++ u :: after)) (hu : isModifier u = false)
    (hb : u ∉ before) (ha : u ∉ after) :
    s.takeKeyReport p mods (before ++ u :: after) { mods := mods, keys := before ++ after } = State.keyBreak p s u := by
  have hbroken : (State.keyBreak p s u).diu[p] = .keyboard mods (before ++ after) := by
    rw [(State.keyBreak_desk p s u).1, State.setDeskPort_port, hport, DeskPort.release_key hu hb ha]
  rw [State.takeKeyReport_breaks_key (fun k hk => List.mem_append_left _ hk) (by simp [hb, ha]),
    State.takeKeyReport_same (fun _ h => h) (fun _ h => h), State.setDeskPort_self hbroken]

theorem State.takeKeyReport_one_make (hport : s.diu[p] = .keyboard mods (before ++ after)) (hu : isModifier u = false)
    (hb : u ∉ before) (ha : u ∉ after) :
    s.takeKeyReport p mods (before ++ after) { mods := mods, keys := before ++ u :: after } =
      State.keyMake p (before ++ u :: after) s u := by
  have hmade : (State.keyMake p (before ++ u :: after) s u).diu[p] = .keyboard mods (before ++ u :: after) := by
    rw [(State.keyMake_desk p _ s u).1, State.setDeskPort_port, hport, DeskPort.press_key _ hu (idxOf_first hb)]
  rw [State.takeKeyReport_makes_key (keys' := before ++ u :: after) (fun v hv => ?_) (fun k hk => List.mem_append_left _ hk)
    (by simp [hb, ha]) (fun v => ?_) ha, State.takeKeyReport_same (fun _ h => h) (fun _ h => h), State.setDeskPort_self hmade]
  · rcases List.mem_append.mp hv with h | h
    · exact List.mem_append_left _ h
    · exact List.mem_append_right _ (List.mem_cons_of_mem _ h)
  · simp only [List.mem_append, List.mem_cons, or_left_comm]

theorem State.takeKeyReport_one_modifier_break (hport : s.diu[p] = .keyboard mods keys) {k : Fin 8}
    (hk : mods.getLsbD k.val = true) :
    s.takeKeyReport p mods keys { mods := mods &&& ~~~ (1#8 <<< k.val), keys := keys } =
      State.keyBreak p s (0xE0 + byte k.val) := by
  have hbroken : (State.keyBreak p s (0xE0 + byte k.val)).diu[p] = .keyboard (mods &&& ~~~ (1#8 <<< k.val)) keys := by
    rw [(State.keyBreak_desk p s _).1, State.setDeskPort_port, hport, DeskPort.release_modifier]
  have hbit (j : Fin 8) : (mods &&& ~~~ (mods &&& ~~~ (1#8 <<< k.val))).getLsbD j.val = (mods.getLsbD j.val && decide (j = k)) := by
    simp only [BitVec.getLsbD_and, BitVec.getLsbD_not, getLsbD_bit, j.isLt, decide_true, Bool.true_and]
    cases mods.getLsbD j.val <;> simp
  rw [State.takeKeyReport_breaks_modifier k (fun _ h => h) (by rw [hbit, hk, decide_eq_true rfl]; rfl)
      (fun j hj => by rw [hbit, decide_eq_false hj.ne, Bool.and_false]),
    State.takeKeyReport_same (fun _ h => h) (fun _ h => h), State.setDeskPort_self hbroken]

theorem State.takeKeyReport_one_modifier_make (hport : s.diu[p] = .keyboard mods keys) {k : Fin 8}
    (hk : mods.getLsbD k.val = false) :
    s.takeKeyReport p mods keys { mods := mods ||| 1#8 <<< k.val, keys := keys } =
      State.keyMake p keys s (0xE0 + byte k.val) := by
  have hmade : (State.keyMake p keys s (0xE0 + byte k.val)).diu[p] = .keyboard (mods ||| 1#8 <<< k.val) keys := by
    rw [(State.keyMake_desk p _ s _).1, State.setDeskPort_port, hport, DeskPort.press_modifier]
  have hnone : mods &&& ~~~ (mods ||| 1#8 <<< k.val) = 0 := by
    rw [BitVec.not_or, ← BitVec.and_assoc, BitVec.and_not_self]
    exact BitVec.zero_and
  have hbit (j : Fin 8) : ((mods ||| 1#8 <<< k.val) &&& ~~~ mods).getLsbD j.val = (!mods.getLsbD j.val && decide (j = k)) := by
    simp only [BitVec.getLsbD_and, BitVec.getLsbD_or, BitVec.getLsbD_not, getLsbD_bit, j.isLt, decide_true, Bool.true_and]
    cases mods.getLsbD j.val <;> simp
  rw [State.takeKeyReport_makes_modifier k (fun _ h => h) hnone (by rw [hbit, hk, decide_eq_true rfl]; rfl)
      (fun j hj => by rw [hbit, decide_eq_false hj.ne, Bool.and_false]),
    State.takeKeyReport_same (fun _ h => h) (fun _ h => h), State.setDeskPort_self hmade]

end

/-! ### What a whole report leaves of the desk ports -/

/-- Every desk port but one, and the clock. -/
def State.SameButPort (p : DeskPortId) (s t : State) : Prop := (∀ d, t.diu.set p d = s.diu.set p d) ∧ t.clock = s.clock

theorem State.SameButPort.refl (p : DeskPortId) (s : State) : s.SameButPort p s := ⟨fun _ => rfl, rfl⟩

theorem State.SameButPort.trans {p : DeskPortId} (h : s.SameButPort p t) (k : t.SameButPort p u) : s.SameButPort p u :=
  ⟨fun d => (k.1 d).trans (h.1 d), k.2.trans h.2⟩

theorem State.SameDesk.sameButPort {p : DeskPortId} {d : DeskPort} (h : (s.setDeskPort p d).SameDesk t) : s.SameButPort p t :=
  ⟨fun d' => by rw [h.1]; exact Vector.set_set _ _, h.2⟩

theorem State.sameButPort_foldl {α : Type} {p : DeskPortId} {f : State → α → State}
    (h : ∀ (s : State) (a : α), s.SameButPort p (f s a))
    (l : List α) (s : State) : s.SameButPort p (l.foldl f s) := by
  induction l generalizing s with
  | nil => exact .refl p s
  | cons a l ih => exact (h s a).trans (ih _)

theorem State.keyBreak_sameButPort (p : DeskPortId) (s : State) (u : Byte) : s.SameButPort p (State.keyBreak p s u) :=
  (State.keyBreak_desk p s u).sameButPort

theorem State.keyMake_sameButPort (p : DeskPortId) (slots : List Byte) (s : State) (u : Byte) :
    s.SameButPort p (State.keyMake p slots s u) := (State.keyMake_desk p slots s u).sameButPort

theorem State.takeKeyReport_desk (p : DeskPortId) (mods : Byte) (keys : List Byte) (r : KeyReport) (s : State) :
    (s.takeKeyReport p mods keys r).diu = s.diu.set p (.keyboard r.mods r.keys) ∧ (s.takeKeyReport p mods keys r).clock = s.clock := by
  have hfolds := (State.sameButPort_foldl (State.keyBreak_sameButPort p) (keys.filter fun u => !r.keys.contains u) s).trans
    ((State.sameButPort_foldl (State.keyBreak_sameButPort p) (modifierList (mods &&& ~~~ r.mods)) _).trans
      ((State.sameButPort_foldl (State.keyMake_sameButPort p r.keys) (modifierList (r.mods &&& ~~~ mods)) _).trans
        (State.sameButPort_foldl (State.keyMake_sameButPort p r.keys) (r.keys.filter fun u => !keys.contains u) _)))
  exact ⟨hfolds.1 _, hfolds.2⟩

/-! ### The command -/

theorem State.keyboardReport_of {p : DeskPortId} {mods : Byte} {keys bytes : List Byte} {r : KeyReport}
    (hport : s.diu[p] = .keyboard mods keys) (hreduce : reduceKeys bytes = some r) :
    s.keyboardReport p bytes = s.takeKeyReport p mods keys r := by
  unfold State.keyboardReport
  rw [hport, hreduce]

theorem State.keyboardReport_ignored {p : DeskPortId} {bytes : List Byte}
    (h : (∀ mods keys, s.diu[p] ≠ .keyboard mods keys) ∨ reduceKeys bytes = none) : s.keyboardReport p bytes = s := by
  unfold State.keyboardReport
  split
  case h_1 mods keys r hport hreduce =>
    rcases h with hno | hnone
    · exact absurd hport (hno mods keys)
    · exact absurd hreduce (by rw [hnone]; exact nofun)
  case h_2 => rfl

/-- A report does what a report of its first event alone does, and then what the report itself does after that. -/
theorem exec_first_event {t : Time} {p : DeskPortId} {mods : Byte} {keys bytes one : List Byte} {r r1 : KeyReport}
    (hport : s.diu[p] = .keyboard mods keys) (hr : reduceKeys bytes = some r) (hone : reduceKeys one = some r1)
    (hpeel : (s.at t).takeKeyReport p mods keys r =
      ((s.at t).takeKeyReport p mods keys r1).takeKeyReport p r1.mods r1.keys r) :
    ∃ v, exec (.keyboardReport t p one) s = .next v ∧
      exec (.keyboardReport t p bytes) s = exec (.keyboardReport t p bytes) v := by
  obtain ⟨hdiu, hclock⟩ := State.takeKeyReport_desk p mods keys r1 (s.at t)
  refine ⟨(s.at t).takeKeyReport p mods keys r1,
    congrArg Host.Outcome.next (State.keyboardReport_of (s := s.at t) hport hone), congrArg Host.Outcome.next ?_⟩
  rw [State.keyboardReport_of (s := s.at t) hport hr, State.at_of_clock (s := s) hclock, hpeel]
  refine (State.keyboardReport_of ?_ hr).symm
  rw [hdiu]
  exact Vector.getElem_set_self p.isLt

/-! ### A pointer report, one event at a time (R9, R10) -/

theorem reduceMove_of (b dx dy : Byte) (more : List Byte) : reduceMove (b :: dx :: dy :: more) =
    some { buttons := b.setWidth 5, dx := deskCount dx, dy := deskCount dy, wheel := deskCount (more.headD 0) } := by
  cases more <;> rfl

theorem reduceMove_short {bytes : List Byte} (h : bytes.length < 3) : reduceMove bytes = none := by
  unfold reduceMove
  split
  · simp only [List.length_cons] at h
    omega
  · simp only [List.length_cons] at h
    omega
  · rfl

theorem buttonList_lowest (w : Buttons) (k : Fin 5) (hk : w.getLsbD k.val = true) (hlow : ∀ j < k, w.getLsbD j.val = false) :
    buttonList w = k :: buttonList (w &&& ~~~ (1#5 <<< k.val)) := by
  revert hk hlow k w
  decide

theorem State.buttonBreak_desk (p : DeskPortId) (s : State) (b : Fin 5) :
    (s.setDeskPort p (s.diu[p].releaseButton b)).SameDesk (State.buttonBreak p s b) := State.handOn_sameDesk _ _

theorem State.buttonMake_desk (p : DeskPortId) (s : State) (b : Fin 5) :
    (s.setDeskPort p (s.diu[p].pressButton b)).SameDesk (State.buttonMake p s b) := State.handOn_sameDesk _ _

/-- What a run of one kind of event leaves of its desk port. -/
theorem State.foldl_desk {α : Type} {p : DeskPortId} {f : State → α → State} {g : DeskPort → α → DeskPort}
    (h : ∀ (s : State) (a : α), (s.setDeskPort p (g s.diu[p] a)).SameDesk (f s a)) (l : List α) (s : State) :
    (s.setDeskPort p (l.foldl g s.diu[p])).SameDesk (l.foldl f s) := by
  induction l generalizing s with
  | nil => exact ⟨(congrArg State.diu (State.setDeskPort_self (s := s) rfl)).symm, rfl⟩
  | cons a l ih =>
    obtain ⟨hdiu, hclock⟩ := ih (f s a)
    have hport : (f s a).diu[p] = g s.diu[p] a := by rw [(h s a).1, State.setDeskPort_port]
    refine ⟨?_, hclock.trans (h s a).2⟩
    rw [List.foldl_cons, List.foldl_cons, hdiu, hport]
    exact (h s a).sameButPort.1 _

theorem buttons_after_report : ∀ held new : Buttons,
    (buttonList (new &&& ~~~ held)).foldl (fun d b => DeskPort.pressButton b d)
      ((buttonList (held &&& ~~~ new)).foldl (fun d b => DeskPort.releaseButton b d) (DeskPort.pointer held)) = DeskPort.pointer new := by
  decide

section
variable {p : DeskPortId} {held new : Buttons} {dx dy w : Int}

/-- The button part of a report and its wheel. -/
theorem State.takeMoveReport_still :
    s.takeMoveReport p held { buttons := new, dx := 0, dy := 0, wheel := w } =
      (if w = 0 then (buttonList (new &&& ~~~ held)).foldl (State.buttonMake p)
          ((buttonList (held &&& ~~~ new)).foldl (State.buttonBreak p) s)
        else ((buttonList (new &&& ~~~ held)).foldl (State.buttonMake p)
          ((buttonList (held &&& ~~~ new)).foldl (State.buttonBreak p) s)).handOn (.wheel p w)) := by
  simp only [State.takeMoveReport, and_self, if_true]

theorem State.takeMoveReport_moves_first (h : ¬ (dx = 0 ∧ dy = 0)) :
    s.takeMoveReport p held { buttons := new, dx := dx, dy := dy, wheel := w } =
      (s.handOn (.motion p dx dy)).takeMoveReport p held { buttons := new, dx := 0, dy := 0, wheel := w } := by
  simp only [State.takeMoveReport, and_self, if_true, if_neg h]

theorem State.takeMoveReport_breaks {k : Fin 5} (hk : (held &&& ~~~ new).getLsbD k.val = true)
    (hlow : ∀ j < k, (held &&& ~~~ new).getLsbD j.val = false) :
    s.takeMoveReport p held { buttons := new, dx := 0, dy := 0, wheel := w } =
      (State.buttonBreak p s k).takeMoveReport p (held &&& ~~~ (1#5 <<< k.val)) { buttons := new, dx := 0, dy := 0, wheel := w } := by
  have hbreaks : held &&& ~~~ new &&& ~~~ (1#5 <<< k.val) = held &&& ~~~ (1#5 <<< k.val) &&& ~~~ new := by
    rw [BitVec.and_assoc, BitVec.and_comm (~~~ new), BitVec.and_assoc]
  simp only [State.takeMoveReport_still, buttonList_lowest _ k hk hlow, hbreaks, and_not_of_clear (getLsbD_and_not hk).2,
    List.foldl_cons]

theorem State.takeMoveReport_makes {k : Fin 5} (hbroken : held &&& ~~~ new = 0) (hk : (new &&& ~~~ held).getLsbD k.val = true)
    (hlow : ∀ j < k, (new &&& ~~~ held).getLsbD j.val = false) :
    s.takeMoveReport p held { buttons := new, dx := 0, dy := 0, wheel := w } =
      (State.buttonMake p s k).takeMoveReport p (held ||| 1#5 <<< k.val) { buttons := new, dx := 0, dy := 0, wheel := w } := by
  have hmakes : new &&& ~~~ held &&& ~~~ (1#5 <<< k.val) = new &&& ~~~ (held ||| (1#5 <<< k.val)) := by
    rw [BitVec.not_or, BitVec.and_assoc]
  simp only [State.takeMoveReport_still, hbroken, or_and_not_of_set (getLsbD_and_not hk).1 hbroken,
    buttonList_lowest _ k hk hlow, hmakes, List.foldl_cons, show buttonList 0 = [] from rfl, List.foldl_nil]

/-- What a pointer report leaves of the desk ports. -/
theorem State.takeMoveReport_desk (hport : s.diu[p] = .pointer held) (r : MoveReport) :
    (s.setDeskPort p (.pointer r.buttons)).SameDesk (s.takeMoveReport p held r) := by
  have hmove : s.SameDesk (if r.dx = 0 ∧ r.dy = 0 then s else s.handOn (.motion p r.dx r.dy)) := by
    split
    · exact ⟨rfl, rfl⟩
    · exact State.handOn_sameDesk _ _
  unfold State.takeMoveReport
  dsimp only
  generalize (if r.dx = 0 ∧ r.dy = 0 then s else s.handOn (.motion p r.dx r.dy)) = v at hmove ⊢
  have hbreaks := State.foldl_desk (g := fun d b => DeskPort.releaseButton b d) (State.buttonBreak_desk p) (buttonList (held &&& ~~~ r.buttons)) v
  rw [hmove.1, hport] at hbreaks
  generalize (buttonList (held &&& ~~~ r.buttons)).foldl (State.buttonBreak p) v = v1 at hbreaks ⊢
  have hmakes := State.foldl_desk (g := fun d b => DeskPort.pressButton b d) (State.buttonMake_desk p) (buttonList (r.buttons &&& ~~~ held)) v1
  rw [hbreaks.1, State.setDeskPort_port, buttons_after_report] at hmakes
  generalize (buttonList (r.buttons &&& ~~~ held)).foldl (State.buttonMake p) v1 = v2 at hmakes ⊢
  have hdesk : (s.setDeskPort p (.pointer r.buttons)).SameDesk v2 := by
    refine ⟨?_, hmakes.2.trans (hbreaks.2.trans hmove.2)⟩
    calc v2.diu = v1.diu.set p (.pointer r.buttons) := hmakes.1
      _ = v.diu.set p (.pointer r.buttons) := hbreaks.sameButPort.1 _
      _ = s.diu.set p (.pointer r.buttons) := by rw [hmove.1]
  split
  · exact hdesk
  · exact hdesk.trans (State.handOn_sameDesk _ _)

/-! A report of one event. -/

theorem State.takeMoveReport_one_motion (h : ¬ (dx = 0 ∧ dy = 0)) :
    s.takeMoveReport p held { buttons := held, dx := dx, dy := dy, wheel := 0 } = s.handOn (.motion p dx dy) := by
  simp only [State.takeMoveReport, if_neg h, buttonList_unchanged, List.foldl_nil, if_true]

theorem State.takeMoveReport_none :
    s.takeMoveReport p held { buttons := held, dx := 0, dy := 0, wheel := 0 } = s := by
  simp only [State.takeMoveReport, and_self, if_true, buttonList_unchanged, List.foldl_nil]

theorem State.takeMoveReport_one_break {k : Fin 5} (hk : held.getLsbD k.val = true) :
    s.takeMoveReport p held { buttons := held &&& ~~~ (1#5 <<< k.val), dx := 0, dy := 0, wheel := 0 } = State.buttonBreak p s k := by
  obtain ⟨hone, hnone⟩ := buttonList_released held k hk
  simp only [State.takeMoveReport, and_self, if_true, hone, hnone, List.foldl_cons, List.foldl_nil]

theorem State.takeMoveReport_one_make {k : Fin 5} (hk : held.getLsbD k.val = false) :
    s.takeMoveReport p held { buttons := held ||| 1#5 <<< k.val, dx := 0, dy := 0, wheel := 0 } = State.buttonMake p s k := by
  obtain ⟨hnone, hone⟩ := buttonList_pressed held k hk
  simp only [State.takeMoveReport, and_self, if_true, hone, hnone, List.foldl_cons, List.foldl_nil]

end

theorem State.pointerReport_of {p : DeskPortId} {held : Buttons} {bytes : List Byte} {r : MoveReport}
    (hport : s.diu[p] = .pointer held) (hreduce : reduceMove bytes = some r) :
    s.pointerReport p bytes = s.takeMoveReport p held r := by
  unfold State.pointerReport
  rw [hport, hreduce]

theorem State.pointerReport_ignored {p : DeskPortId} {bytes : List Byte}
    (h : (∀ held, s.diu[p] ≠ .pointer held) ∨ reduceMove bytes = none) : s.pointerReport p bytes = s := by
  unfold State.pointerReport
  split
  case h_1 held r hport hreduce =>
    rcases h with hno | hnone
    · exact absurd hport (hno held)
    · exact absurd hreduce (by rw [hnone]; exact nofun)
  case h_2 => rfl

/-- A report does what a report of its first event alone does, and then what the rest of it does. -/
theorem exec_first_move {t : Time} {p : DeskPortId} {held : Buttons} {bytes one rest : List Byte} {r r1 r2 : MoveReport}
    (hport : s.diu[p] = .pointer held) (hr : reduceMove bytes = some r) (hone : reduceMove one = some r1)
    (hrest : reduceMove rest = some r2)
    (hpeel : (s.at t).takeMoveReport p held r =
      ((s.at t).takeMoveReport p held r1).takeMoveReport p r1.buttons r2) :
    ∃ v, exec (.pointerReport t p one) s = .next v ∧ exec (.pointerReport t p bytes) s = exec (.pointerReport t p rest) v := by
  obtain ⟨hdiu, hclock⟩ := State.takeMoveReport_desk (s := s.at t) hport r1
  refine ⟨(s.at t).takeMoveReport p held r1,
    congrArg Host.Outcome.next (State.pointerReport_of (s := s.at t) hport hone), congrArg Host.Outcome.next ?_⟩
  rw [State.pointerReport_of (s := s.at t) hport hr, State.at_of_clock (s := s) hclock, hpeel]
  refine (State.pointerReport_of ?_ hrest).symm
  rw [hdiu, State.setDeskPort_port]

end Sys2Proof.Machine
end

section
/-! What the desk ports' reports and detaches come to (R4, R6 to R10, R12, R37). -/

namespace Sys2Proof.Machine

variable {s t u : State}

/-- A keyboard report that reduces leaves its reduction as the previous report. -/
theorem exec_keyboardReport_desk {t : Time} {p : DeskPortId} {mods : Byte} {keys bytes : List Byte} {r : KeyReport}
    (hport : s.diu[p] = .keyboard mods keys) (hr : reduceKeys bytes = some r) :
    ∃ v, exec (.keyboardReport t p bytes) s = .next v ∧ v.diu = s.diu.set p (.keyboard r.mods r.keys) :=
  ⟨_, congrArg Host.Outcome.next (State.keyboardReport_of (s := s.at t) hport hr), (State.takeKeyReport_desk p mods keys r _).1⟩

/-- A keyboard report with the keys and modifiers of the previous one changes the slot order alone. -/
theorem exec_keyboardReport_same {t : Time} {p : DeskPortId} {m : Byte} {keys new bytes : List Byte}
    (hport : s.diu[p] = .keyboard m keys) (hr : reduceKeys bytes = some { mods := m, keys := new })
    (hkeys : ∀ k ∈ keys, k ∈ new) (hnew : ∀ k ∈ new, k ∈ keys) :
    exec (.keyboardReport t p bytes) s = .next ((s.at t).setDeskPort p (.keyboard m new)) :=
  congrArg Host.Outcome.next
    ((State.keyboardReport_of (s := s.at t) hport hr).trans (State.takeKeyReport_same hkeys hnew))

theorem exec_keyboardReport_ignored {t : Time} {p : DeskPortId} {bytes : List Byte}
    (h : (∀ mods keys, s.diu[p] ≠ .keyboard mods keys) ∨ reduceKeys bytes = none) :
    exec (.keyboardReport t p bytes) s = .next (s.at t) :=
  congrArg Host.Outcome.next (State.keyboardReport_ignored (s := s.at t) h)

theorem exec_pointerReport_ignored {t : Time} {p : DeskPortId} {bytes : List Byte}
    (h : (∀ held, s.diu[p] ≠ .pointer held) ∨ reduceMove bytes = none) :
    exec (.pointerReport t p bytes) s = .next (s.at t) :=
  congrArg Host.Outcome.next (State.pointerReport_ignored (s := s.at t) h)

/-- R6: the six slots of a report, reduced, or ignored for an error slot among them. -/
theorem reduceKeys_slots (m reserved : Byte) {slots : List Byte} (hsix : slots.length = 6) (more : List Byte) :
    ((∃ u ∈ slots, 1 ≤ u ∧ u ≤ 3) → reduceKeys (m :: reserved :: (slots ++ more)) = none) ∧
    ((∀ u ∈ slots, ¬ (1 ≤ u ∧ u ≤ 3)) → reduceKeys (m :: reserved :: (slots ++ more)) =
      some { mods := m, keys := (slots.filter (fun u => decide (u ≠ 0) && !isModifier u)).eraseDups }) := by
  rw [reduceKeys_six m reserved hsix more]
  refine ⟨fun ⟨u, hu, herror⟩ => if_pos ?_, fun hclear => if_neg ?_⟩
  · exact List.any_eq_true.mpr ⟨u, hu, (isErrorSlot_iff u).mpr herror⟩
  · rw [List.any_eq_true]
    rintro ⟨u, hu, herror⟩
    exact hclear u hu ((isErrorSlot_iff u).mp herror)

theorem CleanKeys.of_sublist {list list' : List Byte} (h : CleanKeys list) (hsub : list'.Sublist list) : CleanKeys list' :=
  ⟨hsub.length_le.trans h.1, h.2.1.sublist hsub, fun u hu => h.2.2 u (hsub.subset hu)⟩

theorem notMem_sides {α : Type} {before after : List α} {u : α} (h : (before ++ u :: after).Nodup) : u ∉ before ∧ u ∉ after := by
  rw [List.nodup_middle, List.nodup_cons, List.mem_append, not_or] at h
  exact h.1

/-- Keys all found in a list without repeats, and one more of that list: so they are fewer than the list. -/
theorem length_lt_of_missing {keys new : List Byte} {u : Byte} (hkeys : keys.Nodup) (hsub : ∀ k ∈ keys, k ∈ new) (hu : u ∈ new)
    (hmissing : u ∉ keys) : keys.length < new.length :=
  (List.subperm_of_subset (List.nodup_cons.mpr ⟨hmissing, hkeys⟩)
    (List.cons_subset.mpr ⟨hu, hsub⟩)).length_le

theorem joined_perm (keys : List Byte) (n : Nat) (u : Byte) : (keys.take n ++ u :: keys.drop n).Perm (u :: keys) := by
  refine List.perm_middle.trans ?_
  rw [List.take_append_drop]

/-- R8: a clean key list with the first missing key of a new one, in that one's slot. -/
theorem CleanKeys.join {keys before after : List Byte} {u : Byte} (hkeys : CleanKeys keys) (hnew : CleanKeys (before ++ u :: after))
    (hsub : ∀ k ∈ keys, k ∈ before ++ u :: after) (hmissing : u ∉ keys) :
    CleanKeys (keys.take before.length ++ u :: keys.drop before.length) := by
  have hu : u ∈ before ++ u :: after := List.mem_append_right _ List.mem_cons_self
  have hperm := joined_perm keys before.length u
  refine ⟨?_, hperm.nodup_iff.mpr (List.nodup_cons.mpr ⟨hmissing, hkeys.2.1⟩), fun k hk => ?_⟩
  · rw [hperm.length_eq]
    exact (length_lt_of_missing hkeys.2.1 hsub hu hmissing).trans_le hnew.1
  · rcases List.mem_cons.mp (hperm.mem_iff.mp hk) with rfl | hin
    · exact hnew.2.2 _ hu
    · exact hkeys.2.2 k hin

/-- R7, R8: the first key a report makes, peeled off. -/
theorem State.takeKeyReport_first_make {p : DeskPortId} {m u : Byte} {keys before after : List Byte}
    (hport : s.diu[p] = .keyboard m keys) (hnodup : (before ++ u :: after).Nodup) (hmod : isModifier u = false)
    (hsub : ∀ k ∈ keys, k ∈ before ++ u :: after) (hbefore : ∀ k ∈ before, k ∈ keys) (hu : u ∉ keys) :
    let joined := keys.take before.length ++ u :: keys.drop before.length
    s.takeKeyReport p m keys { mods := m, keys := before ++ u :: after } =
      (s.takeKeyReport p m keys { mods := m, keys := joined }).takeKeyReport p m joined { mods := m, keys := before ++ u :: after } := by
  intro joined
  obtain ⟨hb, ha⟩ := notMem_sides hnodup
  have hsplit : keys.take before.length ++ keys.drop before.length = keys := List.take_append_drop _ _
  have htake : u ∉ keys.take before.length := fun h => hu (List.mem_of_mem_take h)
  have hdrop : u ∉ keys.drop before.length := fun h => hu (List.mem_of_mem_drop h)
  have hone : s.takeKeyReport p m keys { mods := m, keys := joined } = State.keyMake p joined s u := by
    have h := State.takeKeyReport_one_make (before := keys.take before.length) (after := keys.drop before.length)
      (by rw [hsplit]; exact hport) hmod htake hdrop
    rwa [hsplit] at h
  have hslots : s.diu[p].press (before ++ u :: after) u = s.diu[p].press joined u := by
    have hjoined := DeskPort.press_key (mods := m) (after := keys.drop before.length) joined hmod (idxOf_first htake)
    rw [hsplit] at hjoined
    rw [hport, hjoined, DeskPort.press, if_neg (by rw [hmod]; exact Bool.false_ne_true), addInSlot, idxOf_first hb]
  rw [hone, State.takeKeyReport_makes_key hsub hbefore hu (fun v => ?_) ha, State.keyMake_slots hslots]
  rw [(joined_perm keys before.length u).mem_iff, List.mem_cons]

/-- Settles O13: a report's first event, peeled off, is a report of its own. -/
theorem deskReportsBecomeThePreviousReport : Obligations.DeskReportsBecomeThePreviousReport := by
  unfold Obligations.DeskReportsBecomeThePreviousReport
  refine ⟨?keyboard, ?keys, ?pointer, ?moves, ?other, ?slots⟩
  case keyboard =>
    intro t p s mods keys hport
    refine ⟨fun bytes hshort => exec_keyboardReport_ignored (.inr (reduceKeys_short hshort)), ?_⟩
    intro m reserved k0 k1 k2 k3 k4 k5 more slots reduced report
    obtain ⟨hnone, hsome⟩ := reduceKeys_slots m reserved (slots := slots) rfl more
    refine ⟨fun herror => exec_keyboardReport_ignored (.inr (hnone herror)), fun hclear => ?_⟩
    refine ⟨exec_keyboardReport_desk hport (hsome hclear), ?_⟩
    rintro rfl rfl
    exact (exec_keyboardReport_same hport (hsome hclear) (fun _ h => h) (fun _ h => h)).trans
      (congrArg Host.Outcome.next (State.setDeskPort_self (s := s.at t) hport))
  case keys =>
    intro t p s mods m keys new hport clean report first (hkeys : CleanKeys keys) (hnew : CleanKeys new)
    have hr := reduceKeys_reportBytes m hnew
    refine ⟨fun before u after he hbefore hu => ?_, fun hsub => ⟨fun k hk hlow => ?_, fun k hbroken hk hlow => ?_, ?_⟩⟩
    · subst he
      have hone := reduceKeys_reportBytes mods (hkeys.of_sublist (List.sublist_cons_self u after |>.append_left before))
      obtain ⟨hb, ha⟩ := notMem_sides hkeys.2.1
      refine exec_first_event hport hr hone ?_
      rw [State.takeKeyReport_breaks_key hbefore hu,
        State.takeKeyReport_one_break (s := s.at t) hport (hkeys.2.2 u (by simp)).2 hb ha]
    · refine exec_first_event hport hr (reduceKeys_reportBytes _ hkeys) ?_
      rw [State.takeKeyReport_breaks_modifier k hsub hk hlow,
        State.takeKeyReport_one_modifier_break (s := s.at t) hport (getLsbD_and_not hk).1]
    · refine exec_first_event hport hr (reduceKeys_reportBytes _ hkeys) ?_
      rw [State.takeKeyReport_makes_modifier k hsub hbroken hk hlow,
        State.takeKeyReport_one_modifier_make (s := s.at t) hport (getLsbD_and_not hk).2]
      refine congrArg (State.takeKeyReport p _ _ _) (State.keyMake_slots ?_)
      rw [State.at_diu, hport, DeskPort.press_modifier, DeskPort.press_modifier]
    · rintro rfl
      refine ⟨fun before u after he hbefore hu => ?_, fun hback => exec_keyboardReport_same hport hr hsub hback⟩
      subst he
      refine exec_first_event hport hr (reduceKeys_reportBytes _ (hkeys.join hnew hsub hu)) ?_
      exact State.takeKeyReport_first_make hport hnew.2.1 (hnew.2.2 u (by simp)).2 hsub hbefore hu
  case pointer =>
    intro t p s held hport
    refine ⟨fun bytes hshort => exec_pointerReport_ignored (.inr (reduceMove_short hshort)), fun b dx dy more => ⟨?_, ?_⟩⟩
    · exact ⟨_, congrArg Host.Outcome.next (State.pointerReport_of (s := s.at t) hport (reduceMove_of b dx dy more)),
        (State.takeMoveReport_desk (s := s.at t) hport _).1⟩
    · rintro hb rfl rfl hw
      refine congrArg Host.Outcome.next ((State.pointerReport_of (s := s.at t) hport (reduceMove_of b 0 0 more)).trans ?_)
      rw [hb, hw]
      exact State.takeMoveReport_none
  case moves =>
    intro t p s held b dx dy w hport new first
    have hr := reduceMove_of b dx dy [w]
    have hrest := reduceMove_of b 0 0 [w]
    have hone (buttons : Buttons) (x y : Byte) : reduceMove [buttons.setWidth 8, x, y, 0] =
        some { buttons := buttons, dx := deskCount x, dy := deskCount y, wheel := 0 } := by
      rw [reduceMove_of, setWidth_buttons]
      rfl
    refine ⟨fun hmoves => ?_, ?_⟩
    · have hcounts : ¬ (deskCount dx = 0 ∧ deskCount dy = 0) := fun h =>
        hmoves ⟨by_contra fun hx => deskCount_ne_zero hx h.1, by_contra fun hy => deskCount_ne_zero hy h.2⟩
      refine exec_first_move hport hr (hone held dx dy) hrest ?_
      rw [State.takeMoveReport_moves_first hcounts, State.takeMoveReport_one_motion hcounts]
      rfl
    · rintro rfl rfl k
      refine ⟨fun hk hlow => ?_, fun hbroken hk hlow => ?_⟩
      · refine exec_first_move hport hr (hone _ 0 0) hrest ?_
        exact (State.takeMoveReport_breaks hk hlow).trans
          (congrArg (State.takeMoveReport p _ _) (State.takeMoveReport_one_break (getLsbD_and_not hk).1).symm)
      · refine exec_first_move hport hr (hone _ 0 0) hrest ?_
        exact (State.takeMoveReport_makes hbroken hk hlow).trans
          (congrArg (State.takeMoveReport p _ _) (State.takeMoveReport_one_make (getLsbD_and_not hk).2).symm)
  case other =>
    intro t p s bytes
    exact ⟨fun h => exec_keyboardReport_ignored (.inl h), fun h => exec_pointerReport_ignored (.inl h)⟩
  case slots =>
    intro m u before after hu hb ha
    exact ⟨DeskPort.press_key _ hu (idxOf_first hb), DeskPort.release_key hu hb ha⟩

/-! ### Detach -/

theorem State.detachDevice_empty {p : DeskPortId} (h : s.diu[p] = .empty) : s.detachDevice p = s := by
  simp only [State.detachDevice, h]

/-- R4, R37: what a detach does after the breaks. -/
theorem State.detachDevice_of {p : DeskPortId} (h : s.diu[p] ≠ .empty) :
    s.detachDevice p = ((s.synthesiseBreaks p).enterDesk p .empty).purgePort p := by
  unfold State.detachDevice
  split
  · exact absurd ‹_› h
  · rfl

theorem State.synthesiseBreaks_sameButPort (p : DeskPortId) (s : State) : s.SameButPort p (s.synthesiseBreaks p) := by
  unfold State.synthesiseBreaks
  split
  · exact (State.sameButPort_foldl (State.keyBreak_sameButPort p) _ _).trans
      (State.sameButPort_foldl (State.keyBreak_sameButPort p) _ _)
  · exact State.sameButPort_foldl (fun v b => (State.buttonBreak_desk p v b).sameButPort) _ _
  · exact .refl p s

/-- R12: the report that holds nothing makes the breaks of a detach. -/
theorem State.takeKeyReport_empty {p : DeskPortId} {mods : Byte} {keys : List Byte} (hport : s.diu[p] = .keyboard mods keys) :
    s.takeKeyReport p mods keys { mods := 0, keys := [] } = (s.synthesiseBreaks p).setDeskPort p (.keyboard 0 []) := by
  have hall : keys.filter (fun u => !([] : List Byte).contains u) = keys := List.filter_eq_self.mpr fun _ _ => rfl
  have hmods : mods &&& ~~~ (0 : Byte) = mods := BitVec.and_allOnes
  have hnone : (0 : Byte) &&& ~~~ mods = 0 := BitVec.zero_and
  simp only [State.takeKeyReport, State.synthesiseBreaks, hport, hall, hmods, hnone, List.filter_nil, List.foldl_nil,
    show modifierList 0 = [] from rfl]

theorem State.takeMoveReport_empty {p : DeskPortId} {held : Buttons} (hport : s.diu[p] = .pointer held) :
    s.takeMoveReport p held { buttons := 0, dx := 0, dy := 0, wheel := 0 } = s.synthesiseBreaks p := by
  have hbuttons : held &&& ~~~ (0 : Buttons) = held := BitVec.and_allOnes
  have hnone : (0 : Buttons) &&& ~~~ held = 0 := BitVec.zero_and
  simp only [State.takeMoveReport_still, State.synthesiseBreaks, hport, hbuttons, hnone, show buttonList 0 = [] from rfl,
    List.foldl_nil, if_true]

/-- From a port with no key and no button held a detach makes no break. -/
theorem State.synthesiseBreaks_idle {p : DeskPortId}
    (h : s.diu[p] = .keyboard 0 [] ∨ s.diu[p] = .pointer 0 ∨ (∃ d, s.diu[p] = .enumerating d) ∨ ∃ w, s.diu[p] = .unsupported w) :
    s.synthesiseBreaks p = s := by
  rcases h with h | h | ⟨d, h⟩ | ⟨w, h⟩ <;> simp only [State.synthesiseBreaks, h] <;> rfl

/-- Settles O14: the empty report's breaks are those of the detach. -/
theorem detachForgetsTheDevice : Obligations.DetachForgetsTheDevice := by
  unfold Obligations.DetachForgetsTheDevice
  intro t p s gone
  have hexec : exec (.deviceDetach t p) s = .next ((s.at t).detachDevice p) := rfl
  have hgone (v : State) : (v.enterDesk p .empty).purgePort p = gone v := rfl
  have hforgets (v : State) (d : DeskPort) : gone (v.setDeskPort p d) = gone v := by
    have hset : (v.diu.set p d).set p .empty = v.diu.set p .empty := Vector.set_set _ _
    simp only [gone, State.setDeskPort, hset]
  rw [hexec]
  refine ⟨fun h => ?empty, fun h => ?left, ?keyboard, ?pointer, fun h => ?idle⟩
  case empty => rw [State.detachDevice_empty (s := s.at t) h]
  case left =>
    rw [State.detachDevice_of (s := s.at t) h]
    refine ⟨_, rfl, ((s.at t).synthesiseBreaks_sameButPort p).1 _, fun e he => ?_, fun k hk => ?_⟩
    · exact of_decide_eq_true (List.mem_filter.mp he).2
    · exact of_decide_eq_true (List.mem_filter.mp hk).2
  case keyboard =>
    rintro ⟨mods, keys, hport⟩
    have hreduce : reduceKeys [0, 0, 0, 0, 0, 0, 0, 0] = some { mods := 0, keys := [] } := rfl
    refine ⟨_, congrArg Host.Outcome.next (State.keyboardReport_of (s := s.at t) hport hreduce), ?_⟩
    rw [State.detachDevice_of (s := s.at t) (fun h => nomatch hport.symm.trans h),
      State.takeKeyReport_empty (s := s.at t) hport, hforgets, hgone]
  case pointer =>
    rintro ⟨held, hport⟩
    refine ⟨_, congrArg Host.Outcome.next (State.pointerReport_of (s := s.at t) hport rfl), ?_⟩
    rw [State.detachDevice_of (s := s.at t) (fun h => nomatch hport.symm.trans h), hgone]
    exact congrArg (fun v => Host.Outcome.next (gone v)) (State.takeMoveReport_empty (s := s.at t) hport).symm
  case idle =>
    have hport : s.diu[p] ≠ .empty := by rcases h with h | h | ⟨d, h⟩ | ⟨w, h⟩ <;> simp only [h, ne_eq, reduceCtorEq, not_false_eq_true]
    rw [State.detachDevice_of (s := s.at t) hport, State.synthesiseBreaks_idle (s := s.at t) h, hgone]

end Sys2Proof.Machine
end

section
/-! Keys on their way to the Route Filter (R8, R11, R16, R24, R25): reports of one key event, and what the sequencer does with a make
that no entry matches and with a break of no held make. -/

namespace Sys2Proof.Machine

variable {s t u : State}

/-! ### A report that is one key event -/

section
variable {time : Time} {p : DeskPortId} {mods : Byte} {keys before after : List Byte} {v : Byte}

theorem State.handOn_awake (h : s.wpc.desk = .awake) (e : DeskEvent) : s.handOn e = s.deliver e := by
  simp only [State.handOn, State.gate_awake h]

theorem State.handOn_break {e : DeskEvent} (h : e.isBreak = true) : s.handOn e = s.deliver e := by
  simp only [State.handOn, State.gate_break h]

theorem exec_key_make (hport : s.diu[p] = .keyboard mods (before ++ after)) (hclean : CleanKeys (before ++ v :: after)) :
    exec (.keyboardReport time p (reportBytes mods (before ++ v :: after))) s =
      .next (((s.at time).setDeskPort p (.keyboard mods (before ++ v :: after))).handOn (.keyMake p v)) := by
  obtain ⟨hb, ha⟩ := notMem_sides hclean.2.1
  have hmod := (hclean.2.2 v (by simp)).2
  refine congrArg Host.Outcome.next
    ((State.keyboardReport_of (s := s.at time) hport (reduceKeys_reportBytes mods hclean)).trans ?_)
  rw [State.takeKeyReport_one_make (s := s.at time) hport hmod hb ha, State.keyMake, State.at_diu, hport,
    DeskPort.press_key _ hmod (idxOf_first hb)]

theorem exec_key_break (hport : s.diu[p] = .keyboard mods (before ++ v :: after)) (hmod : isModifier v = false)
    (hnodup : (before ++ v :: after).Nodup) (hrest : CleanKeys (before ++ after)) :
    exec (.keyboardReport time p (reportBytes mods (before ++ after))) s =
      .next (((s.at time).setDeskPort p (.keyboard mods (before ++ after))).deliver (.keyBreak p v)) := by
  obtain ⟨hb, ha⟩ := notMem_sides hnodup
  refine congrArg Host.Outcome.next
    ((State.keyboardReport_of (s := s.at time) hport (reduceKeys_reportBytes mods hrest)).trans ?_)
  rw [State.takeKeyReport_one_break (s := s.at time) hport hmod hb ha, State.keyBreak, State.at_diu, hport,
    DeskPort.release_key hmod hb ha, State.handOn_break rfl]

theorem exec_modifier_make {k : Fin 8} (hport : s.diu[p] = .keyboard mods keys) (hclean : CleanKeys keys)
    (hk : mods.getLsbD k.val = false) :
    exec (.keyboardReport time p (reportBytes (mods ||| 1#8 <<< k.val) keys)) s =
      .next (((s.at time).setDeskPort p (.keyboard (mods ||| 1#8 <<< k.val) keys)).handOn (.keyMake p (0xE0 + byte k.val))) := by
  refine congrArg Host.Outcome.next
    ((State.keyboardReport_of (s := s.at time) hport (reduceKeys_reportBytes _ hclean)).trans ?_)
  rw [State.takeKeyReport_one_modifier_make (s := s.at time) hport hk, State.keyMake, State.at_diu, hport,
    DeskPort.press_modifier]

theorem exec_modifier_break {k : Fin 8} (hport : s.diu[p] = .keyboard mods keys) (hclean : CleanKeys keys)
    (hk : mods.getLsbD k.val = true) :
    exec (.keyboardReport time p (reportBytes (mods &&& ~~~ (1#8 <<< k.val)) keys)) s =
      .next (((s.at time).setDeskPort p (.keyboard (mods &&& ~~~ (1#8 <<< k.val)) keys)).deliver
        (.keyBreak p (0xE0 + byte k.val))) := by
  refine congrArg Host.Outcome.next
    ((State.keyboardReport_of (s := s.at time) hport (reduceKeys_reportBytes _ hclean)).trans ?_)
  rw [State.takeKeyReport_one_modifier_break (s := s.at time) hport hk, State.keyBreak, State.at_diu, hport,
    DeskPort.release_modifier, State.handOn_break rfl]

end

theorem exists_modifier {u : Byte} (h : isModifier u = true) : ∃ k : Fin 8, u = 0xE0 + byte k.val := (isModifier_iff u).mp h

theorem modifierBit_eq {u : Byte} (h : isModifier u = true) : modifierBit u = 1#8 <<< (u.toNat - 0xE0) := by
  obtain ⟨k, rfl⟩ := exists_modifier h
  clear h
  revert k
  decide

/-- R8: a keyboard report's two fields with one usage more, a key among others or a modifier. -/
def pressedKeys (mods u : Byte) (before after : List Byte) : Byte × List Byte :=
  if isModifier u then (mods ||| modifierBit u, before ++ after) else (mods, before ++ u :: after)

theorem pressedKeys_key {u : Byte} (h : isModifier u = false) (mods : Byte) (before after : List Byte) :
    pressedKeys mods u before after = (mods, before ++ u :: after) := if_neg (by rw [h]; exact Bool.false_ne_true)

theorem pressedKeys_modifier (k : Fin 8) (mods : Byte) (before after : List Byte) :
    pressedKeys mods (0xE0 + byte k.val) before after = (mods ||| 1#8 <<< k.val, before ++ after) := by
  rw [pressedKeys, if_pos (isModifier_byte k).1, (isModifier_byte k).2]

theorem getLsbD_of_and_bit {n : Nat} {m : BitVec n} {k : Fin n} (h : m &&& 1#n <<< k.val = 0) : m.getLsbD k.val = false := by
  have hbit := congrArg (fun w => BitVec.getLsbD w k.val) h
  rw [BitVec.getLsbD_and, getLsbD_bit, decide_eq_true rfl, Bool.and_true] at hbit
  exact hbit.trans BitVec.getLsbD_zero

theorem or_bit_and_not {n : Nat} {m : BitVec n} {k : Fin n} (h : m.getLsbD k.val = false) :
    (m ||| 1#n <<< k.val) &&& ~~~ (1#n <<< k.val) = m := by
  refine BitVec.eq_of_getLsbD_eq fun i hi => ?_
  have hbit := getLsbD_bit k ⟨i, hi⟩
  by_cases he : (⟨i, hi⟩ : Fin n) = k
  · have hik : i = k.val := congrArg Fin.val he
    simp only [hik, BitVec.getLsbD_and, BitVec.getLsbD_or, BitVec.getLsbD_not, getLsbD_bit, decide_true, Bool.not_true,
      Bool.and_false, h]
  · rw [decide_eq_false he] at hbit
    simp only [BitVec.getLsbD_and, BitVec.getLsbD_or, BitVec.getLsbD_not, hbit, hi, decide_true, Bool.not_false, Bool.and_true,
      Bool.or_false]

section
variable {time : Time} {p : DeskPortId} {mods u : Byte} {before after : List Byte}

theorem exec_usage_make (hport : s.diu[p] = .keyboard mods (before ++ after)) (hup : isModifier u = true → mods &&& modifierBit u = 0)
    (hclean : CleanKeys (pressedKeys mods u before after).2) :
    let pressed := pressedKeys mods u before after
    exec (.keyboardReport time p (reportBytes pressed.1 pressed.2)) s =
      .next (((s.at time).setDeskPort p (.keyboard pressed.1 pressed.2)).handOn (.keyMake p u)) := by
  intro pressed
  cases hmod : isModifier u with
  | false =>
    simp only [pressed, pressedKeys_key hmod] at hclean ⊢
    exact exec_key_make hport hclean
  | true =>
    obtain ⟨k, rfl⟩ := exists_modifier hmod
    have hnone := hup hmod
    rw [(isModifier_byte k).2] at hnone
    have hpressed : pressed = (mods ||| 1#8 <<< k.val, before ++ after) := pressedKeys_modifier k mods before after
    rw [hpressed]
    exact exec_modifier_make hport (by rw [show pressedKeys mods _ before after = _ from hpressed] at hclean; exact hclean)
      (getLsbD_of_and_bit hnone)

theorem exec_usage_break
    (hport : s.diu[p] = .keyboard (pressedKeys mods u before after).1 (pressedKeys mods u before after).2)
    (hup : isModifier u = true → mods &&& modifierBit u = 0) (hclean : CleanKeys (pressedKeys mods u before after).2) :
    exec (.keyboardReport time p (reportBytes mods (before ++ after))) s =
      .next (((s.at time).setDeskPort p (.keyboard mods (before ++ after))).deliver (.keyBreak p u)) := by
  cases hmod : isModifier u with
  | false =>
    rw [pressedKeys_key hmod] at hport hclean
    exact exec_key_break hport hmod hclean.2.1 (hclean.of_sublist ((List.sublist_cons_self u after).append_left before))
  | true =>
    obtain ⟨k, rfl⟩ := exists_modifier hmod
    have hnone := hup hmod
    rw [(isModifier_byte k).2] at hnone
    have hup := getLsbD_of_and_bit hnone
    rw [show pressedKeys mods _ before after = _ from pressedKeys_modifier k mods before after] at hport hclean
    have h := exec_modifier_break (time := time) (k := k) hport hclean
      (by rw [BitVec.getLsbD_or, getLsbD_bit, decide_eq_true rfl, Bool.or_true])
    rw [or_bit_and_not hup] at h
    exact h

end

/-! ### Matching (R16, R17) -/

theorem HotkeyEntry.fits_iff (kinds : TriggerKind → Bool) (u : Byte) (mods : BitVec 4) (e : HotkeyEntry) :
    e.fits kinds u mods = true ↔ e.enabled = true ∧ kinds e.kind = true ∧ e.usage = u ∧ e.cond.met mods = true := by
  simp only [HotkeyEntry.fits, Bool.and_eq_true, decide_eq_true_eq, and_assoc]

theorem TriggerKind.isChord_iff (k : TriggerKind) : k.isChord = true ↔ k ≠ .sequence := by cases k <;> decide

theorem TriggerKind.isSequence_iff (k : TriggerKind) : k.isSequence = true ↔ k = .sequence := by cases k <;> decide

/-- R16: the entry i matches a make of a usage among the kinds tried. -/
def State.Matches (kinds : TriggerKind → Bool) (u : Byte) (s : State) (i : Fin 24) : Prop :=
  s.hks.table[i].enabled = true ∧ kinds s.hks.table[i].kind = true ∧ s.hks.table[i].usage = u ∧
    s.hks.table[i].cond.met s.deskModifiers = true

theorem State.matchEntry_none {kinds : TriggerKind → Bool} {u : Byte} (h : ∀ i, ¬ s.Matches kinds u i) :
    s.matchEntry kinds u = none := by
  refine List.find?_eq_none.mpr fun i _ => ?_
  rw [HotkeyEntry.fits_iff]
  exact h i

theorem State.matchEntry_some {kinds : TriggerKind → Bool} {u : Byte} {i : Fin 24} (hi : s.Matches kinds u i)
    (hfirst : ∀ j < i, ¬ s.Matches kinds u j) : s.matchEntry kinds u = some i := by
  refine find?_finRange_eq ((HotkeyEntry.fits_iff _ _ _ _).mpr hi) fun j hj => ?_
  rw [Bool.eq_false_iff]
  exact mt (HotkeyEntry.fits_iff _ _ _ _).mp (hfirst j hj)

/-! ### Events that no hotkey takes (R24, R25) -/

theorem State.makeInIdle_unmatched {p : DeskPortId} {u : Byte} (hleader : s.hks.leader ≠ some u)
    (h : ∀ i, ¬ s.Matches TriggerKind.isChord u i) :
    s.makeInIdle p u = s.route { port := p, make := true, usage := u } := by
  unfold State.makeInIdle
  rw [if_neg hleader, State.matchEntry_none h]
  rfl

theorem State.takeKeyMake_idle (h : s.hks.seq = .idle) (p : DeskPortId) (u : Byte) : s.takeKeyMake p u = s.makeInIdle p u := by
  simp only [State.takeKeyMake, h]

theorem openMake_none {p : DeskPortId} {u : Byte} {hold : List KeyEvent} (h : ∀ e ∈ hold, ¬ (e.port = p ∧ e.usage = u)) :
    openMake p u hold = false := by
  have hnone : hold.filter (fun e => decide (e.port = p) && decide (e.usage = u)) = [] :=
    List.filter_eq_nil_iff.mpr fun e he => by
      rw [Bool.and_eq_true, decide_eq_true_eq, decide_eq_true_eq]
      exact h e he
  rw [openMake, hnone]
  rfl

theorem State.takeKeyBreak_free {p : DeskPortId} {u : Byte} (hswallowed : (p, u) ∉ s.hks.swallowed)
    (hopen : openMake p u s.hks.hold = false) :
    s.takeKeyBreak p u = s.route { port := p, make := false, usage := u } := by
  unfold State.takeKeyBreak
  rw [if_neg (by rw [List.contains_iff_mem]; exact hswallowed), hopen]
  rfl

/-- Settles O15: a report of one key, and the Route Filter's make and break. -/
theorem keysReachAndLeaveTheirDestination : Obligations.KeysReachAndLeaveTheirDestination := by
  unfold Obligations.KeysReachAndLeaveTheirDestination
  refine ⟨?_, State.route_make, fun p u s hlaw => State.route_break p u hlaw⟩
  intro t p u mods before after s hfour bit pressed holding report hup hlength hnodup hkeys
  have hbit (hmod : isModifier u = true) : modifierBit u = bit := modifierBit_eq hmod
  have hpressed : pressed = pressedKeys mods u before after := by
    simp only [pressed, pressedKeys]
    split_ifs with hmod
    · rw [hbit hmod]
    · rfl
  have hclean : CleanKeys (pressedKeys mods u before after).2 := hpressed ▸ ⟨hlength, hnodup, hkeys⟩
  have hmods (hmod : isModifier u = true) : mods &&& modifierBit u = 0 := by rw [hbit hmod]; exact hup hmod
  rw [hpressed]
  refine ⟨fun hport hawake hidle hleader hmatch => ?make, fun hport hhold hswallowed => ?release⟩
  case make =>
    refine (exec_usage_make hport hmods hclean).trans (congrArg Host.Outcome.next ?_)
    let made := holding (pressedKeys mods u before after)
    refine (State.handOn_awake (s := made) hawake _).trans ?_
    refine (State.takeKeyMake_idle (s := made) hidle p u).trans
      (State.makeInIdle_unmatched (s := made) hleader fun i ⟨henabled, hkind, husage, hcond⟩ => hmatch i ?_)
    exact ⟨henabled, (TriggerKind.isChord_iff _).mp hkind, husage, hcond⟩
  case release =>
    refine (exec_usage_break hport hmods hclean).trans (congrArg Host.Outcome.next ?_)
    exact State.takeKeyBreak_free (s := holding (mods, before ++ after)) hswallowed (openMake_none hhold)

end Sys2Proof.Machine
end

section
/-! While the desk is AWAKE (R155 to R157): none of the blocks' own operations puts it to sleep, whatever the dwell setting. -/

namespace Sys2Proof.Machine

variable {s t u : State}

/-- An AWAKE desk stays AWAKE. -/
def State.AwakeOn (s t : State) : Prop := s.wpc.desk = .awake → t.wpc.desk = .awake

theorem State.AwakeOn.of_eq (h : t.wpc.desk = s.wpc.desk) : s.AwakeOn t := fun hawake => h.trans hawake

theorem State.AwakeOn.refl (s : State) : s.AwakeOn s := id

theorem State.AwakeOn.trans (h : s.AwakeOn t) (k : t.AwakeOn u) : s.AwakeOn u := k ∘ h

theorem State.Follows.awakeOn (h : s.Follows t) : s.AwakeOn t := .of_eq (by rw [h.wpc])

theorem State.awakeOn_foldl {α : Type} {f : State → α → State} (h : ∀ (s : State) (a : α), s.AwakeOn (f s a)) (l : List α)
    (s : State) : s.AwakeOn (l.foldl f s) := by
  induction l generalizing s with
  | nil => exact .refl s
  | cons a l ih => exact (h s a).trans (ih _)

section
variable {re : State → State} (hre : ∀ s : State, s.AwakeOn (re s))
include hre

theorem State.awakeOn_applyAtOnce (s : State) (scr : ScreenId) : s.AwakeOn (s.applyAtOnce re scr) := by
  have happlied := (s.shows_applyWaiting scr true).awakeOn
  unfold State.applyAtOnce
  dsimp only
  split
  · refine happlied.trans ((State.shows_leaveStandbyIfLit _ scr).awakeOn.trans ?_)
    unfold State.tellPointer
    split
    · exact hre _
    · exact .refl _
  · exact happlied

theorem State.awakeOn_reevaluateScreen (s : State) (scr : ScreenId) : s.AwakeOn (s.reevaluateScreen re scr) := by
  unfold State.reevaluateScreen
  split
  · exact .refl s
  · split
    · split
      · split
        · exact (s.shows_setPower scr _).awakeOn.trans (State.awakeOn_applyAtOnce hre _ scr)
        · exact (s.shows_setPower scr _).awakeOn
      · exact .refl s
    · split
      · exact .refl s
      · exact (s.shows_setPower scr _).awakeOn
    · exact (s.shows_leaveStandbyIfLit scr).awakeOn

theorem State.awakeOn_changePort (s : State) (c : Comp) (new : PortState) : s.AwakeOn (s.changePort re c new) := by
  unfold State.changePort State.afterChange
  dsimp only
  split
  · exact .refl s
  · next hdiffers =>
    have htold : s.AwakeOn (if (s.comp c).port = .resuming
        then ((s.enterPort c new).notify (.portState c new (s.comp c).port ((s.enterPort c new).comp c).remoteWake)).endAttempt c new.wakeEnd
        else (s.enterPort c new).notify (.portState c new (s.comp c).port ((s.enterPort c new).comp c).remoteWake)) := by
      rw [enterPort_eq]
      split
      · refine .of_eq ?_
        unfold State.endAttempt
        split <;> rfl
      · exact .of_eq rfl
    generalize (if (s.comp c).port = .resuming
        then ((s.enterPort c new).notify (.portState c new (s.comp c).port ((s.enterPort c new).comp c).remoteWake)).endAttempt c new.wakeEnd
        else (s.enterPort c new).notify (.portState c new (s.comp c).port ((s.enterPort c new).comp c).remoteWake)) = v at htold ⊢
    have htest : v.AwakeOn (if inSet v.wpc.awaited c then v.completionTest re else v) := by
      split
      · intro hawake
        rw [State.completionTest, if_neg fun h => by rw [hawake] at h; exact nomatch h.1]
        exact hawake
      · exact .refl v
    exact htold.trans (htest.trans ((State.awakeOn_foldl (State.awakeOn_reevaluateScreen hre) allScreens _).trans
      (State.follows_deriveLeds _).awakeOn))

theorem State.awakeOn_wake (s : State) (c : Comp) (cause : WakeCause) : s.AwakeOn (s.wake re c cause) := by
  by_cases hport : (s.comp c).port = .suspended
  · cases hpermit : (s.comp c).remoteWake
    · rw [State.wake_refused re cause hport hpermit]
      exact .of_eq rfl
    · rw [State.wake_suspended re cause hport hpermit]
      generalize hv : s.setWpc { s.wpc with
          wakes := s.wpc.wakes.set c (some (WakeAttempt.mk cause s.clock (s.clock + s.wpc.wakeTimeout))) } = v
      have hset : s.AwakeOn v := by
        rw [← hv]
        exact .of_eq rfl
      exact hset.trans (State.awakeOn_changePort hre v c .resuming)
  · rw [State.wake_other re cause hport]
    exact .refl s
end

theorem State.awakeOn_changeFocus (s : State) (c : Comp) (cause : FocusCause) : s.AwakeOn (s.changeFocus c cause) := by
  have hwritten : s.AwakeOn (s.written c cause) := .of_eq rfl
  have hwoken : (s.written c cause).AwakeOn ((s.written c cause).wokenFor c) := by
    unfold State.wokenFor
    split
    · exact State.awakeOn_wake (fun v => v.shows_reevaluateCore.awakeOn) _ c .focus
    · exact .refl _
  have harrived : ((s.written c cause).wokenFor c).AwakeOn
      (((s.written c cause).wokenFor c).arrived c s.fcu.focus cause) := .of_eq rfl
  rw [State.changeFocus_eq]
  exact hwritten.trans (hwoken.trans (harrived.trans (State.follows_deriveLeds _).awakeOn))

theorem State.awakeOn_grant (s : State) (c : Comp) (cause : FocusCause) (forced : Bool) : s.AwakeOn (s.grant c cause forced) := by
  unfold State.grant
  split
  · dsimp only
    split
    · have hunlock : s.AwakeOn (s.setFcu { s.fcu with lock := s.lockOnLeavingHard }) := .of_eq rfl
      exact hunlock.trans (State.awakeOn_changeFocus _ c cause)
    · exact s.awakeOn_changeFocus c cause
  · exact .refl s
  · exact .refl s

theorem State.awakeOn_requestFocus (s : State) (c : Comp) (cause : FocusCause) (forced : Bool) :
    s.AwakeOn (s.requestFocus c cause forced) := by
  unfold State.requestFocus
  split
  · refine (s.awakeOn_grant c cause forced).trans ?_
    unfold State.takeDeferredGlide
    split
    · split
      · exact State.awakeOn_grant _ _ _ _
      · exact .refl _
    · exact .refl _
  · exact .refl s
  · exact .refl s

theorem State.awakeOn_reevaluate (s : State) : s.AwakeOn s.reevaluate := by
  unfold State.reevaluate
  split
  · exact s.shows_reevaluateCore.awakeOn.trans (State.awakeOn_requestFocus _ _ _ _)
  · exact s.shows_reevaluateCore.awakeOn

theorem State.awakeOn_route (s : State) (e : KeyEvent) : s.AwakeOn (s.route e) := by
  have hbreak (u : Byte) : s.AwakeOn (s.routeBreak e.port u) := by
    obtain ⟨held, cps, heq, -⟩ := State.routeBreak_frame e.port u s
    rw [heq]
    exact .refl s
  unfold State.route
  split
  · unfold State.routeMake
    dsimp only
    split
    · exact .refl s
    · have hcreate (d : Destination) : s.AwakeOn (s.createEntry e.port e.usage d) := by
        obtain ⟨cps, heq⟩ := State.setHeld_eq (s.routeBreak e.port e.usage)
          ((s.routeBreak e.port e.usage).rtf.held ++ [(s.routeBreak e.port e.usage).newEntry e.port e.usage d])
        rw [State.createEntry, heq]
        exact hbreak e.usage
      refine (hcreate _).trans (State.awakeOn_foldl (fun v c => ?_) _ _)
      unfold State.inputWake
      split
      · exact State.awakeOn_wake State.awakeOn_reevaluate v c .input
      · exact .refl v
  · exact hbreak e.usage

/-- R20: the held events leave an AWAKE desk AWAKE on their way to the Route Filter. -/
theorem State.awakeOn_releaseHold (s : State) : s.AwakeOn s.releaseHold :=
  have hidle : s.AwakeOn (s.setHks s.hks.toIdle) := .of_eq rfl
  hidle.trans (State.awakeOn_foldl State.awakeOn_route _ _)

end Sys2Proof.Machine
end

section
/-! The leader sequence (R26, R29, R30, R32 to R34, R36): FIRST TAP, ARMED and the hold buffer. -/

namespace Sys2Proof.Machine

variable {s t u : State}

/-! ### Reports of a keyboard with at most one key -/

theorem cleanKeys_one {v : Byte} (hfour : 4 ≤ v) (hmod : isModifier v = false) : CleanKeys [v] :=
  ⟨Nat.le_add_left 1 5, List.nodup_singleton v, fun k hk => by rw [List.mem_singleton.mp hk]; exact ⟨hfour, hmod⟩⟩

theorem cleanKeys_nil : CleanKeys [] := ⟨Nat.zero_le 6, List.nodup_nil, nofun⟩

/-- R56: the desk modifier state follows the modifiers, not the keys. -/
theorem State.deskModifiers_setKeys {p : DeskPortId} {m : Byte} {keys : List Byte} (hport : s.diu[p] = .keyboard m keys)
    (new : List Byte) : (s.setDeskPort p (.keyboard m new)).deskModifiers = s.deskModifiers := by
  have hmerged (q : DeskPortId) : ((s.setDeskPort p (.keyboard m new)).diu[q]).merged = (s.diu[q]).merged := by
    by_cases hq : q = p
    · subst hq
      rw [State.setDeskPort_port, hport]
      rfl
    · have hother : (s.setDeskPort p (.keyboard m new)).diu[q] = s.diu[q] :=
        Vector.getElem_set_ne p.isLt q.isLt fun h => hq (Fin.ext h.symm)
      rw [hother]
  simp only [State.deskModifiers, hmerged]

section
variable {time : Time} {p : DeskPortId} {m v : Byte}

/-- The make of the only key of a keyboard, with the desk AWAKE. -/
theorem exec_one_key_down (hport : s.diu[p] = .keyboard m []) (hfour : 4 ≤ v) (hmod : isModifier v = false)
    (hawake : s.wpc.desk = .awake) : exec (.keyboardReport time p [m, 0, v, 0, 0, 0, 0, 0]) s =
      .next (((s.at time).setDeskPort p (.keyboard m [v])).takeKeyMake p v) := by
  refine (exec_key_make (before := []) (after := []) hport (cleanKeys_one hfour hmod)).trans (congrArg Host.Outcome.next ?_)
  exact State.handOn_awake (s := (s.at time).setDeskPort p (.keyboard m [v])) hawake _

/-- The break of the only key of a keyboard. -/
theorem exec_one_key_up (hport : s.diu[p] = .keyboard m [v]) (hmod : isModifier v = false) :
    exec (.keyboardReport time p [m, 0, 0, 0, 0, 0, 0, 0]) s =
      .next (((s.at time).setDeskPort p (.keyboard m [])).takeKeyBreak p v) :=
  exec_key_break (before := []) (after := []) hport hmod (List.nodup_singleton v) cleanKeys_nil
end

/-! ### The hold buffer (R20, R24, R36) -/

theorem State.holdEvent_room {hold : List KeyEvent} (h : s.hks.hold = hold) (hroom : hold.length < 8) (e : KeyEvent)
    (next : Sequencer) : s.holdEvent e next = s.setHks { s.hks with hold := hold ++ [e], seq := next } := by
  subst h
  exact if_pos hroom

/-- R20: a held make with no later event of its key is open. -/
theorem openMake_of_last {p : DeskPortId} {v : Byte} {before after : List KeyEvent}
    (hafter : ∀ e ∈ after, ¬ (e.port = p ∧ e.usage = v)) :
    openMake p v (before ++ { port := p, make := true, usage := v } :: after) = true := by
  have hnone : after.filter (fun e => decide (e.port = p) && decide (e.usage = v)) = [] :=
    List.filter_eq_nil_iff.mpr fun e he => by
      rw [Bool.and_eq_true, decide_eq_true_eq, decide_eq_true_eq]
      exact hafter e he
  rw [openMake, List.filter_append, List.filter_cons_of_pos (by simp), hnone, List.getLast?_concat]

theorem State.takeKeyBreak_held {p : DeskPortId} {v : Byte} (hswallowed : (p, v) ∉ s.hks.swallowed)
    (hopen : openMake p v s.hks.hold = true) : s.takeKeyBreak p v = s.breakOfHeld p v := by
  unfold State.takeKeyBreak
  rw [if_neg (by rw [List.contains_iff_mem]; exact hswallowed), if_pos hopen]

theorem State.breakOfHeld_first {p : DeskPortId} {v : Byte} {d : Time} (h : s.hks.seq = .firstTap .firstDown d) :
    s.breakOfHeld p v =
      s.holdEvent { port := p, make := false, usage := v } (.firstTap .firstUp (s.clock + s.hks.tapWindow)) := by
  simp only [State.breakOfHeld, h]

theorem State.breakOfHeld_second {p : DeskPortId} {v : Byte} {d : Time} (h : s.hks.seq = .firstTap .secondDown d) :
    s.breakOfHeld p v = s.holdEvent { port := p, make := false, usage := v } (.armed (s.clock + s.hks.commandWindow)) := by
  simp only [State.breakOfHeld, h]

theorem State.breakOfHeld_armed {p : DeskPortId} {v : Byte} {d : Time} (h : s.hks.seq = .armed d) :
    s.breakOfHeld p v = s.holdEvent { port := p, make := false, usage := v } (.armed d) := by
  simp only [State.breakOfHeld, h]

/-! ### Makes while the sequencer waits (R30, R32 to R34) -/

theorem State.makeInIdle_leader {p : DeskPortId} {v : Byte} (h : s.hks.leader = some v) : s.makeInIdle p v =
    s.holdEvent { port := p, make := true, usage := v } (.firstTap .firstDown (s.clock + s.hks.tapWindow)) := if_pos h

theorem State.takeKeyMake_second {p : DeskPortId} {v : Byte} {d : Time} (hseq : s.hks.seq = .firstTap .firstUp d)
    (hleader : s.hks.leader = some v) : s.takeKeyMake p v =
      s.holdEvent { port := p, make := true, usage := v } (.firstTap .secondDown (s.clock + s.hks.tapWindow)) := by
  simp only [State.takeKeyMake, hseq, hleader, and_self, if_true]

theorem State.takeKeyMake_failed {p : DeskPortId} {v : Byte} {phase : TapPhase} {d : Time} (hseq : s.hks.seq = .firstTap phase d)
    (h : ¬ (phase = .firstUp ∧ s.hks.leader = some v)) : s.takeKeyMake p v = s.releaseHold.makeInIdle p v := by
  simp only [State.takeKeyMake, hseq, if_neg h]

theorem State.takeKeyMake_armed {p : DeskPortId} {v : Byte} {d : Time} (hseq : s.hks.seq = .armed d) :
    s.takeKeyMake p v = s.makeInArmed d p v := by
  simp only [State.takeKeyMake, hseq]

theorem State.makeInArmed_modifier {v : Byte} (h : isModifier v = true) (d : Time) (p : DeskPortId) :
    s.makeInArmed d p v = s.holdEvent { port := p, make := true, usage := v } (.armed d) := if_pos h

theorem State.makeInArmed_matched {v : Byte} {i : Fin 24} (hmod : isModifier v = false)
    (h : s.matchEntry TriggerKind.isSequence v = some i) (d : Time) (p : DeskPortId) : s.makeInArmed d p v =
      State.fire i s.hks.table[i].command s.hks.table[i].argument (s.discardHold.setHks (s.discardHold.hks.swallow p v)) := by
  unfold State.makeInArmed
  rw [if_neg (by rw [hmod]; exact Bool.false_ne_true), h]

theorem State.makeInArmed_unmatched {v : Byte} (hmod : isModifier v = false)
    (h : s.matchEntry TriggerKind.isSequence v = none) (d : Time) (p : DeskPortId) :
    s.makeInArmed d p v = s.releaseHold.route { port := p, make := true, usage := v } := by
  unfold State.makeInArmed
  rw [if_neg (by rw [hmod]; exact Bool.false_ne_true), h]
  rfl

theorem State.releaseHold_desk (s : State) : s.SameDesk s.releaseHold :=
  (State.releaseHold_moves (A := [.keys]) (by decide)).sameDesk (by decide) (by decide) (by decide)

theorem State.holdEvent_armed {d : Time} (h : s.hks.seq = .armed d) (e : KeyEvent) :
    s.holdEvent e (.armed d) = if s.hks.hold.length < 8 then s.setHks { s.hks with hold := s.hks.hold ++ [e] }
      else s.releaseHold.route e := by
  rw [← h]
  rfl

/-- Settles O17. -/
theorem twoLeaderTapsArmTheSequencer : Obligations.TwoLeaderTapsArmTheSequencer := by
  unfold Obligations.TwoLeaderTapsArmTheSequencer
  refine ⟨?taps, ?makes, ?modifiers⟩
  case taps =>
    intro t p v s hfour hmod hleader hawake hswallowed now make release down up held
    refine ⟨fun hport hhold hseq => ?_, fun d hport hhold hseq => ?_, fun d hport hhold hseq => ?_, fun d hport hhold hseq => ?_⟩
    · refine (exec_one_key_down hport hfour hmod hawake).trans (congrArg Host.Outcome.next ?_)
      let made := (s.at t).setDeskPort p (.keyboard 0 [v])
      exact (State.takeKeyMake_idle (s := made) hseq p v).trans ((State.makeInIdle_leader (s := made) hleader).trans
        (State.holdEvent_room (s := made) hhold (by decide) make _))
    · refine (exec_one_key_up hport hmod).trans (congrArg Host.Outcome.next ?_)
      let released := (s.at t).setDeskPort p (.keyboard 0 [])
      refine (State.takeKeyBreak_held (s := released) hswallowed ?_).trans ((State.breakOfHeld_first (s := released) hseq).trans
        (State.holdEvent_room (s := released) hhold (show 1 < 8 by decide) release _))
      exact (congrArg (openMake p v) hhold).trans (openMake_of_last (before := []) (after := []) nofun)
    · refine (exec_one_key_down hport hfour hmod hawake).trans (congrArg Host.Outcome.next ?_)
      let made := (s.at t).setDeskPort p (.keyboard 0 [v])
      exact (State.takeKeyMake_second (s := made) hseq hleader).trans
        (State.holdEvent_room (s := made) hhold (show 2 < 8 by decide) make _)
    · refine (exec_one_key_up hport hmod).trans (congrArg Host.Outcome.next ?_)
      let released := (s.at t).setDeskPort p (.keyboard 0 [])
      refine (State.takeKeyBreak_held (s := released) hswallowed ?_).trans ((State.breakOfHeld_second (s := released) hseq).trans
        (State.holdEvent_room (s := released) hhold (show 3 < 8 by decide) release _))
      exact (congrArg (openMake p v) hhold).trans (openMake_of_last (before := [make, release]) (after := []) nofun)
  case makes =>
    intro t p m v s hfour hmod hport hawake down idle released names
    let made := (s.at t).setDeskPort p (.keyboard m [v])
    have hdown : exec down s = .next (made.takeKeyMake p v) := exec_one_key_down hport hfour hmod hawake
    have hreleased : made.releaseHold = released := rfl
    refine ⟨fun phase d hseq hfails => ?failed, fun d hseq => ?armed⟩
    case failed =>
      let again : State := { released with diu := s.diu }
      obtain ⟨hdiu, hclock⟩ := made.releaseHold_desk
      have hagain : again.at t = again := State.at_of_clock (s := s) hclock
      have hport' : (again.setDeskPort p (.keyboard m [v])) = released := by
        have hset : s.diu.set p (.keyboard m [v]) = released.diu := hdiu.symm
        exact congrArg (fun diu => { released with diu := diu }) hset
      have hidle : released.hks.seq = .idle := congrArg Hks.seq made.releaseHold_hks
      have hdown' : exec down again = .next (released.takeKeyMake p v) := by
        have h := exec_one_key_down (s := again) (time := t) hport hfour hmod (made.awakeOn_releaseHold hawake)
        rw [hagain, hport'] at h
        exact h
      rw [hdown, hdown', State.takeKeyMake_failed (s := made) hseq hfails, hreleased, State.takeKeyMake_idle hidle]
    case armed =>
      have hmods : made.deskModifiers = s.deskModifiers := (s.at t).deskModifiers_setKeys hport [v]
      have hnames (i : Fin 24) : made.Matches TriggerKind.isSequence v i ↔ names i := by
        simp only [State.Matches, names, TriggerKind.isSequence_iff, hmods]
        rfl
      rw [hdown, State.takeKeyMake_armed (s := made) hseq]
      refine ⟨fun i hi hfirst => ?_, fun hnone => ?_⟩
      · rw [State.makeInArmed_matched hmod (State.matchEntry_some ((hnames i).mpr hi) fun j hj => mt (hnames j).mp (hfirst j hj))]
        rfl
      · rw [State.makeInArmed_unmatched hmod (State.matchEntry_none fun i => mt (hnames i).mp (hnone i)), hreleased]
  case modifiers =>
    intro t d p m k s hseq bit event taken
    obtain ⟨hmod, -⟩ := isModifier_byte k
    have hheld (make : Bool) (v : State) (hv : v = (s.at t).setDeskPort p (.keyboard (if make then m ||| bit else m &&& ~~~ bit) [])) :
        v.holdEvent (event make) (.armed d) = taken make := by
      subst hv
      exact State.holdEvent_armed
        (s := (s.at t).setDeskPort p (.keyboard (if make then m ||| bit else m &&& ~~~ bit) [])) hseq (event make)
    refine ⟨fun hport hup hawake => ?_, fun hport hdown hswallowed ⟨before, after, hhold, hafter⟩ => ?_⟩
    · refine (exec_modifier_make hport cleanKeys_nil hup).trans (congrArg Host.Outcome.next ?_)
      let made := (s.at t).setDeskPort p (.keyboard (m ||| bit) [])
      refine (State.handOn_awake (s := made) hawake _).trans ((State.takeKeyMake_armed (s := made) hseq).trans ?_)
      exact (State.makeInArmed_modifier hmod d p).trans (hheld true made rfl)
    · refine (exec_modifier_break hport cleanKeys_nil hdown).trans (congrArg Host.Outcome.next ?_)
      let released := (s.at t).setDeskPort p (.keyboard (m &&& ~~~ bit) [])
      refine (State.takeKeyBreak_held (s := released) hswallowed ?_).trans
        ((State.breakOfHeld_armed (s := released) hseq).trans (hheld false released rfl))
      exact (congrArg (openMake p _) hhold).trans (openMake_of_last hafter)

end Sys2Proof.Machine
end

section
/-! Hotkeys (R16, R17, R23, R25 to R28, R38, R39, R60, R148): chords, conditions, and the catalogue of commands. -/

namespace Sys2Proof.Machine

variable {s t u : State}

/-! ### Conditions (R17) -/

theorem Cond.met_iff (held : Bool) (c : Cond) :
    c.met held = true ↔ (c = .required → held = true) ∧ (c = .absent → held = false) := by
  cases c <;> cases held <;> decide

theorem ModCond.met_iff (c : ModCond) (held : BitVec 4) : c.met held = true ↔
    ∀ part ∈ [(c.ctrl, 0), (c.shift, 1), (c.alt, 2), (c.gui, 3)],
      (part.1 = .required → held.getLsbD part.2 = true) ∧ (part.1 = .absent → held.getLsbD part.2 = false) := by
  simp only [ModCond.met, Bool.and_eq_true, Cond.met_iff, List.forall_mem_cons, List.not_mem_nil, false_implies, implies_true,
    and_true, and_assoc]

/-! ### Chords (R25 to R28) -/

theorem State.makeInIdle_matched {p : DeskPortId} {v : Byte} {i : Fin 24} (hleader : s.hks.leader ≠ some v)
    (h : s.matchEntry TriggerKind.isChord v = some i) : s.makeInIdle p v =
      if s.hks.table[i].kind = .chordMake
      then (s.setHks (s.hks.swallow p v)).fire i s.hks.table[i].command s.hks.table[i].argument
      else s.holdEvent { port := p, make := true, usage := v } (.chordHeld i s.hks.table[i].command s.hks.table[i].argument) := by
  unfold State.makeInIdle
  rw [if_neg hleader, h]

theorem State.takeKeyMake_abandons {i : Fin 24} {c : Command} {a : Byte} (hseq : s.hks.seq = .chordHeld i c a)
    (p : DeskPortId) (v : Byte) : s.takeKeyMake p v = s.releaseHold.route { port := p, make := true, usage := v } := by
  simp only [State.takeKeyMake, hseq]
  rfl

theorem State.breakOfHeld_chord {i : Fin 24} {c : Command} {a : Byte} (hseq : s.hks.seq = .chordHeld i c a)
    (p : DeskPortId) (v : Byte) : s.breakOfHeld p v = s.discardHold.fire i c a := by
  simp only [State.breakOfHeld, hseq]

/-! ### SELECT (R60) -/

theorem State.selectComputer_eq (n : Comp) (s : State) : s.selectComputer n =
    if s.fcu.focus = n then (s, .ignored) else if s.fcu.lock = .hard then (s, .refusedLocked)
    else (s.requestFocus n .hotkey false, .done) := by
  have hjudge : s.fcu.judge n .hotkey false =
      if s.fcu.focus = n then .ignored else if s.fcu.lock = .hard then .refusedLocked else .done := by
    simp [Fcu.judge]
  unfold State.selectComputer State.requestFocus
  rw [hjudge]
  split_ifs <;> rfl

/-- The first of the seven offsets that meets a condition. -/
theorem find?_offsets (g : Fin 8 → Comp) (ok : Comp → Bool) {k : Fin 8} (hk : k ≠ 0) (hok : ok (g k) = true)
    (hfirst : ∀ j : Fin 8, j ≠ 0 → j < k → ok (g j) = false) :
    (([1, 2, 3, 4, 5, 6, 7] : List (Fin 8)).map g).find? ok = some (g k) := by
  have hsplit : ∀ k : Fin 8, k ≠ 0 → ∃ before after, ([1, 2, 3, 4, 5, 6, 7] : List (Fin 8)) = before ++ k :: after ∧
      ∀ j ∈ before, j ≠ 0 ∧ j < k := by
    intro k hk
    refine ⟨([1, 2, 3, 4, 5, 6, 7] : List (Fin 8)).take (k.val - 1), ([1, 2, 3, 4, 5, 6, 7] : List (Fin 8)).drop k.val, ?_⟩
    revert k
    decide
  obtain ⟨before, after, heq, hbefore⟩ := hsplit k hk
  rw [heq, List.map_append, List.map_cons, List.find?_append, List.find?_cons_of_pos hok, Option.or_eq_right_of_none]
  rw [List.find?_eq_none]
  rintro c hc
  obtain ⟨j, hj, rfl⟩ := List.mem_map.mp hc
  rw [hfirst j (hbefore j hj).1 (hbefore j hj).2]
  exact Bool.false_ne_true

/-- R60: a computer other than the focus computer that SELECT NEXT and SELECT PREV may come to. -/
def State.Attached (s : State) (c : Comp) : Prop := c ≠ s.fcu.focus ∧ (s.comp c).port ≠ .detached

theorem State.nextComputer_some {n : Comp} (hn : s.Attached n)
    (hfirst : ∀ d, s.Attached d → (n - s.fcu.focus).val ≤ (d - s.fcu.focus).val) : s.nextComputer = some n := by
  have hoffset : ∀ f d : Comp, f + (d - f) = d ∧ (d ≠ 0 → f + d ≠ f) ∧ (d ≠ f → d - f ≠ 0) ∧ f + d - f = d := by decide
  have h := find?_offsets (fun d => s.fcu.focus + d) (fun c => decide ((s.comp c).port ≠ .detached))
    ((hoffset s.fcu.focus n).2.2.1 hn.1) (by rw [(hoffset s.fcu.focus n).1]; exact decide_eq_true hn.2) fun j hj hlt => ?_
  · rw [(hoffset s.fcu.focus n).1] at h
    exact h
  · refine decide_eq_false fun hport => ?_
    have hle := hfirst (s.fcu.focus + j) ⟨(hoffset s.fcu.focus j).2.1 hj, hport⟩
    rw [(hoffset s.fcu.focus j).2.2.2] at hle
    exact absurd hlt (Nat.not_lt.mpr hle)

theorem State.prevComputer_some {n : Comp} (hn : s.Attached n)
    (hfirst : ∀ d, s.Attached d → (s.fcu.focus - n).val ≤ (s.fcu.focus - d).val) : s.prevComputer = some n := by
  have hoffset : ∀ f d : Comp, f - (f - d) = d ∧ (d ≠ 0 → f - d ≠ f) ∧ (d ≠ f → f - d ≠ 0) := by decide
  have hdescending : s.prevComputer = (([1, 2, 3, 4, 5, 6, 7] : List (Fin 8)).map (fun d => s.fcu.focus - d)).find?
      (fun c => decide ((s.comp c).port ≠ .detached)) := by
    have hlist : ∀ f : Comp, ([7, 6, 5, 4, 3, 2, 1] : List (Fin 8)).map (fun d => f + d) =
        ([1, 2, 3, 4, 5, 6, 7] : List (Fin 8)).map (fun d => f - d) := by decide
    rw [State.prevComputer, State.selectFrom, hlist]
  rw [hdescending, find?_offsets (fun d => s.fcu.focus - d) (fun c => decide ((s.comp c).port ≠ .detached))
    ((hoffset s.fcu.focus n).2.2 hn.1) (by rw [(hoffset s.fcu.focus n).1]; exact decide_eq_true hn.2) fun j hj hlt => ?_,
    (hoffset s.fcu.focus n).1]
  refine decide_eq_false fun hport => ?_
  have hle := hfirst (s.fcu.focus - j) ⟨(hoffset s.fcu.focus j).2.1 hj, hport⟩
  rw [(hoffset s.fcu.focus j).1] at hle
  exact absurd hlt (Nat.not_lt.mpr hle)

theorem State.selectFrom_none (h : ∀ n, ¬ s.Attached n) {offsets : List (Fin 8)} (hoffsets : (0 : Fin 8) ∉ offsets) :
    s.selectFrom offsets = none := by
  have hne : ∀ f d : Comp, d ≠ 0 → f + d ≠ f := by decide
  refine List.find?_eq_none.mpr fun c hc => ?_
  obtain ⟨d, hd, rfl⟩ := List.mem_map.mp hc
  rw [decide_eq_true_eq]
  exact fun hport => h _ ⟨hne s.fcu.focus d (fun h0 => hoffsets (h0 ▸ hd)), hport⟩

/-! ### The other commands (R38, R74, R75, R148, R151) -/

theorem State.wakeCommand_suspended {n : Comp} (h : (s.comp n).port = .suspended) :
    s.wakeCommand n = (s.wake State.reevaluate n .hotkey, .done) := by
  unfold State.wakeCommand Computer.wakeAnswer
  rw [h]
  cases (s.comp n).remoteWake <;> rfl

theorem State.wakeCommand_resuming {n : Comp} (h : (s.comp n).port = .resuming) (hpermit : (s.comp n).remoteWake = true) :
    s.wakeCommand n = (s, .done) := by
  have hwake : s.wake State.reevaluate n .hotkey = s := State.wake_other _ _ (by rw [h]; nofun)
  unfold State.wakeCommand Computer.wakeAnswer
  rw [h, hpermit, hwake]

theorem State.wakeCommand_other {n : Comp} (hs : (s.comp n).port ≠ .suspended) (hr : (s.comp n).port ≠ .resuming) :
    s.wakeCommand n = (s, .ignored) := by
  have hanswer : (s.comp n).wakeAnswer = .notAsleep := by
    unfold Computer.wakeAnswer
    split
    · exact absurd ‹_› hs
    · exact absurd ‹_› hs
    · exact absurd ‹_› hr
    · rfl
  simp only [State.wakeCommand, hanswer]

theorem Lco.nextPreset_eq (l : Lco) : l.nextPreset = l.lastPreset.bind fun n => (l.presets[n]).bind Preset.next := by
  unfold Lco.nextPreset
  cases l.lastPreset with
  | none => rfl
  | some n =>
    simp only [Option.bind_some]
    cases l.presets[n] <;> rfl

/-- R135: a flip is accepted for a SINGLE record with a backup head in an active chain. -/
def Lco.Flippable (l : Lco) (r : TileId) (scr : ScreenId) : Prop :=
  (∃ tile p b sh fl v w, l.tiles[r] = some tile ∧ tile.kind = .single p (some b) sh fl v w) ∧ r ∈ l.activeChain scr

theorem State.askFlip_none {re : State → State} {r : TileId} (h : ∀ scr, ¬ s.lco.Flippable r scr) : s.askFlip re r = none := by
  have hscreen : s.lco.flipScreen r = none := by
    unfold Lco.flipScreen
    split
    · next htile =>
      refine List.find?_eq_none.mpr fun scr _ hin => h scr ⟨⟨_, _, _, _, _, _, _, htile, rfl⟩, ?_⟩
      rwa [List.contains_iff_mem] at hin
    · rfl
  unfold State.askFlip
  rw [hscreen]

theorem State.askFlip_isSome {re : State → State} {r : TileId} {scr : ScreenId} (h : s.lco.Flippable r scr) :
    ∃ v, s.askFlip re r = some v := by
  obtain ⟨⟨⟨next, rect, kind⟩, p, b, sh, fl, v, w, htile, hkind⟩, hin⟩ := h
  obtain ⟨o, ho⟩ : ∃ o, s.lco.flipScreen r = some o := by
    have hfound : (allScreens.find? (fun scr => (s.lco.activeChain scr).contains r)).isSome = true :=
      List.find?_isSome.mpr ⟨scr, mem_allScreens scr, by rw [List.contains_iff_mem]; exact hin⟩
    obtain ⟨o, ho⟩ := Option.isSome_iff_exists.mp hfound
    refine ⟨o, ?_⟩
    dsimp only at hkind
    rw [Lco.flipScreen, htile, hkind]
    exact ho
  unfold State.askFlip
  rw [ho, htile]
  exact ⟨_, rfl⟩

theorem toFin_ofNat {n : Nat} [NeZero n] (hn : n ≤ 256) (i : Fin n) : Fin.ofNat n (byte i.val).toNat = i := by
  refine Fin.ext ?_
  rw [Fin.val_ofNat, byte_toNat i.val (i.isLt.trans_le hn), Nat.mod_eq_of_lt i.isLt]

theorem State.runCommand_flip_none {r : TileId} (h : s.askFlip State.reevaluate r = none) :
    s.runCommand .flip (byte r.val) = (s, .ignored) := by
  simp only [State.runCommand, toFin_ofNat (le_refl 256) r, h]

theorem State.runCommand_flip_some {r : TileId} {v : State} (h : s.askFlip State.reevaluate r = some v) :
    s.runCommand .flip (byte r.val) = (v, .done) := by
  simp only [State.runCommand, toFin_ofNat (le_refl 256) r, h]

theorem State.runCommand_preset_some {n : PresetId} {q : Preset} (h : s.lco.presets[n] = some q) :
    s.runCommand .preset (byte n.val) = ((s.applyWritten n q).1, .done) := by
  simp only [State.runCommand, toFin_ofNat (by decide : 16 ≤ 256) n, State.presetCommand, State.applyPreset, h, Option.map_some]

theorem Lco.flipBytes_two (l : Lco) (r : TileId) : ∃ showing pending, l.flipBytes r = [showing, pending] := by
  unfold Lco.flipBytes
  split <;> exact ⟨_, _, rfl⟩

/-- R39: the HOTKEY notice carries the outcome of the command. -/
theorem State.fire_eq (i : Fin 24) (c : Command) (a : Byte) (s : State) : s.fire i c a =
    (s.runCommand c a).1.notify (.hotkey (byte i.val) (s.runCommand c a).2.code c.code a) := rfl

/-- Settles O16. -/
theorem chordMakeIsSwallowedAndReported : Obligations.ChordMakeIsSwallowedAndReported := by
  unfold Obligations.ChordMakeIsSwallowedAndReported
  refine ⟨?down, ?up, ModCond.met_iff, ?fire, ?catalogue, ?requests⟩
  case down =>
    intro t p m v s hfour hmod hport hawake down held make swallowed
    let made := (s.at t).setDeskPort p (.keyboard m [v])
    have hdown : exec down s = .next (made.takeKeyMake p v) := exec_one_key_down hport hfour hmod hawake
    rw [hdown]
    refine ⟨?matched, fun i c a hseq => ?abandoned⟩
    case abandoned =>
      rw [State.takeKeyMake_abandons (s := made) hseq]
      rfl
    case matched =>
      intro i hseq hleader e henabled husage hcond hfirst
      have hmods : made.deskModifiers = s.deskModifiers := (s.at t).deskModifiers_setKeys hport [v]
      have hmatches (j : Fin 24) : made.Matches TriggerKind.isChord v j ↔ s.hks.table[j].enabled = true ∧
          s.hks.table[j].kind ≠ .sequence ∧ s.hks.table[j].usage = v ∧ s.hks.table[j].cond.met s.deskModifiers = true := by
        simp only [State.Matches, TriggerKind.isChord_iff, hmods]
        rfl
      have htaken (hkind : e.kind ≠ .sequence) : made.takeKeyMake p v = _ :=
        (State.takeKeyMake_idle (s := made) hseq p v).trans (State.makeInIdle_matched (s := made) hleader
          (State.matchEntry_some ((hmatches i).mpr ⟨henabled, hkind, husage, hcond⟩) fun j hj => mt (hmatches j).mp (hfirst j hj)))
      refine ⟨fun hkind => ?_, fun hkind hhold => ?_⟩
      · have hentry : made.hks.table[i].kind = .chordMake := hkind
        rw [htaken (by rw [hkind]; nofun), if_pos hentry]
        refine ⟨rfl, fun hcommand => ?_⟩
        have hentry : made.hks.table[i].command = .hostCode := hcommand
        rw [hentry]
        rfl
      · have hother : made.hks.table[i].kind ≠ .chordMake := by
          rw [show made.hks.table[i].kind = .chordBreak from hkind]
          nofun
        rw [htaken (by rw [hkind]; nofun), if_neg hother]
        exact congrArg Host.Outcome.next (State.holdEvent_room (s := made) hhold (by decide) make _)
  case up =>
    intro t p m v i c a s hmod hport hseq hhold hswallowed
    refine (exec_one_key_up hport hmod).trans (congrArg Host.Outcome.next ?_)
    let released := (s.at t).setDeskPort p (.keyboard m [])
    have hopen : openMake p v s.hks.hold = true := (congrArg (openMake p v) hhold).trans (openMake_of_last (before := []) (after := []) nofun)
    exact (State.takeKeyBreak_held (s := released) hswallowed hopen).trans (State.breakOfHeld_chord (s := released) hseq p v)
  case fire =>
    intro i c a s done
    rw [State.fire_eq]
    simp only [done]
    cases (s.runCommand c a).2 <;> rfl
  case catalogue =>
    intro a s f lock left attached
    have hselect (n : Comp) : s.runCommand .select (byte n.val) = s.selectComputer n :=
      congrArg (fun c => s.selectComputer c) (toFin_ofNat (by decide) n)
    have hwake (n : Comp) : s.runCommand .wake (byte n.val) = s.wakeCommand n :=
      congrArg (fun c => s.wakeCommand c) (toFin_ofNat (by decide) n)
    have hpreset (n : PresetId) : s.runCommand .preset (byte n.val) = s.presetCommand n :=
      congrArg (fun n => s.presetCommand n) (toFin_ofNat (by decide) n)
    have hhard (h : s.fcu.lock ≠ .hard) : s.setHard = lock .hard := if_neg h
    have hleft (h : s.fcu.lock = .hard) : s.clearHard = left := by
      have hunhard : left = lock s.lockOnLeavingHard := rfl
      rw [hunhard]
      simp only [State.clearHard, if_pos h, lock, if_neg s.lockOnLeavingHard_ne]
      rfl
    refine ⟨fun n => ⟨?select, fun hn hfirst => ?next, fun hn hfirst => ?prev, fun hport => ?suspended,
      fun hport hpermit => ?resuming, fun hs hr => ?awake⟩, fun hnone => ?none, ?focus, ?lock, ?unlock, ?toggle, rfl,
      fun hdesk => ?sleep, fun n hn => ?preset, ?link, fun r hnone => ?flip⟩
    case select => rw [hselect, State.selectComputer_eq]
    case next =>
      rw [hselect]
      exact congrArg (fun c => s.selectFound c) (State.nextComputer_some hn hfirst)
    case prev =>
      rw [hselect]
      exact congrArg (fun c => s.selectFound c) (State.prevComputer_some hn hfirst)
    case suspended => rw [hwake, State.wakeCommand_suspended hport]
    case resuming => rw [hwake, State.wakeCommand_resuming hport hpermit]
    case awake => rw [hwake, State.wakeCommand_other hs hr]
    case none =>
      exact ⟨congrArg (fun c => s.selectFound c) (State.selectFrom_none hnone (by decide)),
        congrArg (fun c => s.selectFound c) (State.selectFrom_none hnone (by decide))⟩
    case focus => exact (hwake f).symm
    case lock =>
      change (s.setHard, if s.fcu.lock = .hard then FocusOutcome.ignored else .done) = _
      split_ifs with h
      · rw [State.setHard, if_pos h]
      · rw [hhard h]
    case unlock =>
      change (s.clearHard, if s.fcu.lock = .hard then FocusOutcome.done else .ignored) = _
      split_ifs with h
      · rw [hleft h]
      · rw [State.clearHard, if_neg h]
    case toggle =>
      change (if s.fcu.lock = .hard then s.clearHard else s.setHard, FocusOutcome.done) = _
      split_ifs with h
      · rw [hleft h]
      · rw [hhard h]
    case sleep => exact if_neg hdesk
    case preset =>
      rw [hpreset, State.presetCommand, State.applyPreset, hn]
      rfl
    case link =>
      split
      · next n hn =>
        rw [hpreset]
        simp only [State.runCommand, s.lco.nextPreset_eq.trans hn]
      · next hn => simp only [State.runCommand, s.lco.nextPreset_eq.trans hn]
    case flip =>
      exact State.runCommand_flip_none (State.askFlip_none fun scr ⟨⟨tile, q, b, sh, fl, v, w, htile, hkind⟩, hin⟩ =>
        hnone tile q b sh fl v w htile hkind scr hin)
  case requests =>
    intro t a tag rest s
    refine ⟨fun hdesk hasks => ⟨congrArg Prod.snd (if_pos hdesk), ?sleep⟩, fun n hn hasks => ?preset,
      fun r tile p b sh fl v w scr htile hkind hin hasks => ?flip⟩
    case sleep =>
      have hsleep : (s.at t).runCommand .deskSleep a = ((s.at t).startSleep, .done) := if_pos hdesk
      rw [hsleep]
      refine ⟨_, requestDeskSleep_keeps.exec_asks hasks (rep := .okWith [(s.at t).startSleep.wpc.desk.code]) ?_⟩
      rw [requestDeskSleep, if_neg (by simp), State.at_wpc, if_pos hdesk]
    case preset =>
      obtain ⟨q, hq⟩ := Option.ne_none_iff_exists'.mp hn
      rw [State.runCommand_preset_some hq, State.runCommand_preset_some (s := s.at t) hq]
      refine ⟨rfl, _, _, requestApplyPreset_keeps.exec_asks hasks
        (rep := .okWith ((s.at t).applyWritten n q).2.bytes) ?_⟩
      have hindex : index 16 (at8 [byte n.val] 0) = some n := index_byte (by decide) n
      have happly : (s.at t).applyPreset n = some ((s.at t).applyWritten n q) := congrArg (Option.map _) hq
      rw [requestApplyPreset, if_neg (by simp), hindex]
      simp only [happly]
    case flip =>
      have hflippable : s.lco.Flippable r scr := ⟨⟨tile, p, b, sh, fl, v, w, htile, hkind⟩, hin⟩
      obtain ⟨v, hv⟩ := State.askFlip_isSome (re := State.reevaluate) hflippable
      obtain ⟨v', hv'⟩ := State.askFlip_isSome (s := s.at t) (re := State.reevaluate) hflippable
      obtain ⟨showing, pending, hbytes⟩ := v'.lco.flipBytes_two r
      rw [State.runCommand_flip_some hv, State.runCommand_flip_some hv']
      refine ⟨rfl, showing, pending, requestFlipTile_keeps.exec_asks hasks (rep := .okWith [showing, pending]) ?_⟩
      have hindex : (at8 [byte r.val] 0).toFin = r := toFin_byte r
      rw [requestFlipTile, if_neg (by simp)]
      simp only [hindex, hv', hbytes]

end Sys2Proof.Machine
end

section
/-! Chains (R130 to R134): the walk of SET CHAIN, and a chain applied where no flip waits. -/

namespace Sys2Proof.Machine

variable {s t u : State} {l : Lco} {scr : ScreenId}

/-! ### The walk (R131) -/

/-- R130: a record is in the chains of another screen than the one that a walk is for. -/
def Lco.Elsewhere (l : Lco) (scr : ScreenId) (q : TileId) : Prop := ∃ other : ScreenId, other ≠ scr ∧ l.inChains other q = true

/-- R131: a tile lies within the size of the screen that a walk is for. -/
def Lco.Inner (l : Lco) (scr : ScreenId) (tile : Tile) : Prop :=
  tile.rect.within l.screens[scr].rect.w l.screens[scr].rect.h = true

theorem Lco.elsewhere_iff (l : Lco) (scr : ScreenId) (q : TileId) :
    allScreens.any (fun other => decide (other ≠ scr) && l.inChains other q) = true ↔ l.Elsewhere scr q := by
  simp [Lco.Elsewhere, mem_allScreens]

theorem walk_free {fuel : Nat} {r : TileId} (h : l.tiles[r] = none) : l.walk scr (fuel + 1) (some r) = some (.freeRecord, r) := by
  rw [Lco.walk, h]

theorem walk_owned {fuel : Nat} {r : TileId} {tile : Tile} (h : l.tiles[r] = some tile) (howned : l.Elsewhere scr r) :
    l.walk scr (fuel + 1) (some r) = some (.ownedElsewhere, r) := by
  simp only [Lco.walk, h, if_pos ((l.elsewhere_iff scr r).mpr howned)]

theorem walk_outside {fuel : Nat} {r : TileId} {tile : Tile} (h : l.tiles[r] = some tile) (hfree : ¬ l.Elsewhere scr r)
    (hout : ¬ l.Inner scr tile) : l.walk scr (fuel + 1) (some r) = some (.outsideScreen, r) := by
  simp only [Lco.walk, h, if_neg (mt (l.elsewhere_iff scr r).mp hfree)]
  exact if_pos (by rw [Bool.not_eq_true', Bool.eq_false_iff]; exact hout)

theorem walk_passes {fuel : Nat} {r : TileId} {tile : Tile} (h : l.tiles[r] = some tile) (hfree : ¬ l.Elsewhere scr r)
    (hin : l.Inner scr tile) : l.walk scr (fuel + 1) (some r) = l.walk scr fuel tile.next := by
  simp only [Lco.walk, h, if_neg (mt (l.elsewhere_iff scr r).mp hfree)]
  exact if_neg (by rw [show tile.rect.within l.screens[scr].rect.w l.screens[scr].rect.h = true from hin]; exact Bool.false_ne_true)

/-- A chain that ends, over records in no other screen's chains, passes the walk. -/
theorem walk_of_ends : ∀ (n : Nat) (start : Option TileId), l.ChainEnds l.screens[scr].rect.w l.screens[scr].rect.h n start →
    (∀ r ∈ followChain l.tiles n start, ¬ l.Elsewhere scr r) → l.walk scr n start = none
  | 0, none, _, _ => rfl
  | 0, some _, hends, _ => hends.elim
  | _ + 1, none, _, _ => rfl
  | n + 1, some r, ⟨tile, htile, hin, hends⟩, hfree => by
    have hfollow : followChain l.tiles (n + 1) (some r) = r :: followChain l.tiles n tile.next := by
      rw [followChain, htile]
    rw [hfollow] at hfree
    rw [walk_passes htile (hfree r List.mem_cons_self) hin]
    exact walk_of_ends n tile.next hends fun q hq => hfree q (List.mem_cons_of_mem _ hq)

theorem checkChain_none_iff (l : Lco) (scr : ScreenId) (start : Option TileId) : l.checkChain scr start = none ↔
    l.ChainEnds l.screens[scr].rect.w l.screens[scr].rect.h 32 start ∧
    ∀ r ∈ l.chain start, ∀ other : ScreenId, other ≠ scr → l.inChains other r = false := by
  refine ⟨walk_ends l scr 32 start, fun ⟨hends, hfree⟩ => walk_of_ends 32 start hends fun r hr ⟨other, hne, hin⟩ => ?_⟩
  rw [hfree r hr other hne] at hin
  exact nomatch hin

/-- The walk along records that all pass comes to the record after them. -/
theorem walk_along (r : TileId) (path : List TileId) (fuel : Nat) (hlength : path.length ≤ fuel)
    (hpath : ∀ i q, path[i]? = some q → ¬ l.Elsewhere scr q ∧
      ∃ tile, l.tiles[q] = some tile ∧ l.Inner scr tile ∧ tile.next = (path ++ [r])[i + 1]?) :
    l.walk scr fuel (path ++ [r]).head? = l.walk scr (fuel - path.length) (some r) := by
  induction path generalizing fuel with
  | nil => rfl
  | cons q path ih =>
    obtain ⟨hfree, tile, htile, hin, hnext⟩ := hpath 0 q rfl
    obtain ⟨fuel, rfl⟩ : ∃ n, fuel = n + 1 := ⟨fuel - 1, by rw [List.length_cons] at hlength; omega⟩
    have hhead : tile.next = (path ++ [r]).head? := by rw [hnext, List.head?_eq_getElem?]; rfl
    have hrest := ih fuel (Nat.le_of_succ_le_succ hlength) fun i q hq => hpath (i + 1) q hq
    rw [List.length_cons, Nat.add_sub_add_right, ← hrest, ← hhead]
    exact walk_passes htile hfree hin

/-! ### A chain applied where no flip waits (R133, R134) -/

theorem Tile.withFlipPending_none {tile : Tile} (h : tile.flipWaits = false) : tile.withFlipPending false = tile := by
  obtain ⟨next, rect, kind⟩ := tile
  cases kind with
  | single p a showing flip v b =>
    have hflip : flip = false := h
    subst hflip
    rfl
  | _ => rfl

theorem Lco.setTile_self {r : TileId} {x : Option Tile} (h : l.tiles[r] = x) : l.setTile r x = l := by
  have hset : l.tiles.set r x = l.tiles := by rw [← h]; exact Vector.set_getElem_self r.isLt
  unfold Lco.setTile
  rw [hset]

theorem Lco.clearFlips_none {rs : List TileId} (h : ∀ r ∈ rs, ∀ tile, l.tiles[r] = some tile → tile.flipWaits = false) :
    l.clearFlips rs = l := by
  unfold Lco.clearFlips
  induction rs with
  | nil => rfl
  | cons r rs ih =>
    have hone : (match l.tiles[r] with
        | some tile => l.setTile r (some (tile.withFlipPending false))
        | none => l) = l := by
      cases htile : l.tiles[r] with
      | none => rfl
      | some tile =>
        dsimp only
        rw [Tile.withFlipPending_none (h r List.mem_cons_self tile htile), Lco.setTile_self htile]
    rw [List.foldl_cons]
    exact (congrArg (fun l => rs.foldl _ l) hone).trans (ih fun q hq => h q (List.mem_cons_of_mem _ hq))

/-- R133: a pending chain applied with no flip waiting on the old chain or on it. -/
theorem State.applyWaiting_noFlips {start : Option TileId} (hpending : s.lco.screens[scr].pending = some start)
    (hflips : ∀ q ∈ s.lco.chain start ++ s.lco.activeChain scr, ∀ tile, s.lco.tiles[q] = some tile → tile.flipWaits = false)
    (atOnce : Bool) :
    s.applyWaiting scr atOnce = ((s.setLco (s.lco.setScreen scr { s.lco.screens[scr] with active := start, pending := none })).notify
      (.chainApplied scr start atOnce), true) := by
  have happlied : s.lco.applied scr start = s.lco.setScreen scr { s.lco.screens[scr] with active := start, pending := none } :=
    Lco.clearFlips_none fun r hr tile htile =>
      hflips r (List.mem_append_right _ (List.mem_filter.mp hr).1) tile htile
  have hchain : (s.lco.setScreen scr { s.lco.screens[scr] with active := start, pending := none }).activeChain scr =
      s.lco.chain start := by
    unfold Lco.activeChain
    rw [setScreen_get, if_pos rfl]
    rfl
  have hnone := State.applyFlips_none scr (rs := s.lco.chain start)
    ((s.setLco (s.lco.setScreen scr { s.lco.screens[scr] with active := start, pending := none })).notify
      (.chainApplied scr start atOnce)) fun q hq tile htile => hflips q (List.mem_append_left _ hq) tile htile
  rw [State.applyWaiting, State.applyPending_some hpending, happlied]
  dsimp only
  rw [show (State.lco ((s.setLco (s.lco.setScreen scr { s.lco.screens[scr] with active := start, pending := none })).notify
    (.chainApplied scr start atOnce))).activeChain scr = s.lco.chain start from hchain, hnone]
  rfl

theorem startOf_number {n : Nat} {start : Option TileId} (h : n = match start with
    | some r => r.val
    | none => 65535) : startOf n = some start := by
  subst h
  cases start with
  | none => exact startOf_none
  | some r => exact startOf_index r

/-! ### SET CHAIN (R131, R132) -/

theorem State.chainFor_unplaced {start : Option TileId} (h : s.lco.screens[scr].placed = false) :
    s.chainFor scr start = (s, .bare .wrongState) := if_pos (by rw [h]; rfl)

theorem State.chainFor_failed {start : Option TileId} {f : WalkFailure} {r : TileId} (hplaced : s.lco.screens[scr].placed = true)
    (h : s.lco.checkChain scr start = some (f, r)) : s.chainFor scr start = (s, chainInvalidReply f r) := by
  unfold State.chainFor
  rw [if_neg (by rw [hplaced]; exact Bool.false_ne_true), h]

theorem State.chainFor_passed {start : Option TileId} (hplaced : s.lco.screens[scr].placed = true)
    (h : s.lco.checkChain scr start = none) : s.chainFor scr start =
      ((s.takeChain State.reevaluate scr start).1, .okWith [flagByte (s.takeChain State.reevaluate scr start).2]) := by
  unfold State.chainFor
  rw [if_neg (by rw [hplaced]; exact Bool.false_ne_true), h]

theorem State.takeChain_lit {re : State → State} {start : Option TileId} (h : ∀ forced, s.wpc.power[scr] ≠ .standby forced) :
    s.takeChain re scr start =
      (s.setLco (s.lco.setScreen scr { s.lco.screens[scr] with pending := some start }), false) := by
  refine if_neg ?_
  change ¬ (s.wpc.power[scr]).isStandby = true
  cases hpower : s.wpc.power[scr] with
  | standby forced => exact absurd hpower (h forced)
  | _ => exact Bool.false_ne_true

theorem State.takeChain_standby {re : State → State} {start : Option TileId} {forced : Bool}
    (h : s.wpc.power[scr] = .standby forced) : s.takeChain re scr start =
      ((s.setLco (s.lco.setScreen scr { s.lco.screens[scr] with pending := some start })).applyAtOnce re scr, true) := by
  refine if_pos ?_
  change (s.wpc.power[scr]).isStandby = true
  rw [h]
  rfl

/-- R97: on a layout with the pointer on a placed screen, the pointer's screen is the one whose rectangle holds it. -/
theorem pointerScreen_iff (hcanvas : s.lco.CanvasLaw) (hpointer : s.PointerLaw) (hplaced : s.lco.screens[scr].placed = true) :
    s.pointerScreen = scr ↔ s.lco.screens[scr].rect.contains s.ptu.px s.ptu.py = true := by
  refine ⟨fun h => ?_, pointerScreen_eq hcanvas hplaced⟩
  obtain ⟨o, ho, hin⟩ := hpointer
  rw [← h, pointerScreen_eq hcanvas ho hin]
  exact hin

theorem pointerScreen_congr (hlayout : s.lco.SameWritten t.lco) (hptu : t.ptu = s.ptu) : t.pointerScreen = s.pointerScreen := by
  simp only [State.pointerScreen, Lco.screenAt, Lco.lowestPlaced, hlayout.placed, hlayout.rect, hptu]

/-- R134: a pending chain on which, and on the old chain, no flip waits, applied at once in STANDBY. -/
theorem State.applyAtOnce_noFlips {start : Option TileId} {forced : Bool} (hpending : s.lco.screens[scr].pending = some start)
    (hpower : s.wpc.power[scr] = .standby forced)
    (hflips : ∀ q ∈ s.lco.chain start ++ s.lco.activeChain scr, ∀ tile, s.lco.tiles[q] = some tile → tile.flipWaits = false) :
    let applied : State := { s with
      lco := s.lco.setScreen scr { s.lco.screens[scr] with active := start, pending := none }
      clp := s.clp.queueNotice (.chainApplied scr start true) }
    let lit : State := if applied.dark scr = false ∧ s.wpc.desk ≠ .asleep then { applied with
        wpc := { s.wpc with power := s.wpc.power.set scr .active }
        clp := applied.clp.queueNotice (.screenPower scr .active s.wpc.power[scr]) } else applied
    s.applyAtOnce State.reevaluate scr = if s.pointerScreen = scr then lit.reevaluate else lit := by
  intro applied lit
  have hlit : applied.leaveStandbyIfLit scr = lit := by
    have hstandby : (applied.power scr).isStandby = true := by
      change (s.wpc.power[scr]).isStandby = true
      rw [hpower]
      rfl
    simp only [State.leaveStandbyIfLit, hstandby, Bool.true_and, Bool.and_eq_true, Bool.not_eq_true', decide_eq_true_eq, lit]
    split_ifs with hlight
    · exact applied.setPower_lit scr rfl
    · rfl
  have hscreen : lit.pointerScreen = s.pointerScreen := by
    have hlayout : s.lco.SameWritten applied.lco := setScreen_sameWritten s.lco scr rfl rfl rfl rfl
    have hlco : lit.lco = applied.lco := by
      simp only [lit]
      split <;> rfl
    refine pointerScreen_congr (by rw [hlco]; exact hlayout) ?_
    simp only [lit]
    split <;> rfl
  have happly : s.applyAtOnce State.reevaluate scr = (applied.leaveStandbyIfLit scr).tellPointer State.reevaluate scr := by
    rw [State.applyAtOnce, State.applyWaiting_noFlips hpending hflips]
    rfl
  rw [happly, hlit, State.tellPointer, hscreen]

/-- Settles O45. -/
theorem setChainWalksTheChain : Obligations.SetChainWalksTheChain := by
  unfold Obligations.SetChainWalksTheChain
  refine ⟨checkChain_none_iff, ?walk, ?request⟩
  case walk =>
    intro l scr path r elsewhere inside check hlength hpath
    have hcheck : check = l.walk scr (32 - path.length) (some r) := walk_along r path 32 hlength hpath
    refine ⟨fun h => ?_, fun h => ?_⟩
    · rw [hcheck, h]
      rfl
    · obtain ⟨fuel, hfuel⟩ : ∃ n, 32 - path.length = n + 1 := ⟨31 - path.length, by omega⟩
      rw [hcheck, hfuel]
      exact ⟨walk_free, fun tile htile => ⟨walk_owned htile, walk_outside htile⟩⟩
  case request =>
    intro t s tag lo hi rest scr hasks u n
    have hindex : index 8 (at8 [byte scr.val, lo, hi] 0) = some scr := index_byte (by decide) scr
    have hnumber : at16 [byte scr.val, lo, hi] 1 = n := u16_eq lo hi
    refine ⟨fun hlow hnone => ?_, ?_⟩
    · refine requestSetChain_keeps.exec_asks hasks (rep := .bare .badValue) ?_
      rw [requestSetChain, if_neg (by simp), hindex, hnumber, startOf_of_ge hlow hnone]
    · intro start hstart waiting
      have howner : requestSetChain [byte scr.val, lo, hi] u = u.chainFor scr start := by
        rw [requestSetChain, if_neg (by simp), hindex, hnumber, startOf_number hstart]
      refine ⟨fun hplaced => ?_, fun hplaced => ⟨fun f r hcheck => ?_, fun hcheck => ⟨fun hlit => ?_, ?standby⟩⟩⟩
      · refine requestSetChain_keeps.exec_asks hasks (howner.trans (State.chainFor_unplaced (s := u) hplaced))
      · refine requestSetChain_keeps.exec_asks hasks (howner.trans (State.chainFor_failed (s := u) hplaced hcheck))
      · have htaken : u.takeChain State.reevaluate scr start = (waiting, false) := State.takeChain_lit (s := u) hlit
        refine requestSetChain_keeps.exec_asks hasks (rep := .okWith [0]) (howner.trans ?_)
        rw [State.chainFor_passed (s := u) hplaced hcheck, htaken]
        rfl
      case standby =>
        rintro ⟨forced, hpower⟩ applied lit told
        have htaken : u.takeChain State.reevaluate scr start = (waiting.applyAtOnce State.reevaluate scr, true) :=
          State.takeChain_standby (s := u) hpower
        refine ⟨requestSetChain_keeps.exec_asks hasks (rep := .okWith [1]) (howner.trans ?_), fun hcanvas hpointer hflips => ?_⟩
        · rw [State.chainFor_passed (s := u) hplaced hcheck, htaken]
          rfl
        · have hscreen : waiting.lco.screens[scr] = { s.lco.screens[scr] with pending := some start } :=
            Vector.getElem_set_self scr.isLt
          have hactive : waiting.lco.activeChain scr = s.lco.activeChain scr := by
            unfold Lco.activeChain
            rw [hscreen]
            rfl
          have hpending : waiting.lco.screens[scr].pending = some start := by rw [hscreen]
          have hlayout : s.lco.SameWritten waiting.lco := setScreen_sameWritten s.lco scr rfl rfl rfl rfl
          have hpointerScreen : waiting.pointerScreen = s.pointerScreen := pointerScreen_congr hlayout rfl
          have hset : waiting.lco.setScreen scr { waiting.lco.screens[scr] with active := start, pending := none } = applied.lco := by
            rw [hscreen]
            exact congrArg (fun screens => { s.lco with screens := screens }) (Vector.set_set _ _)
          have happly := State.applyAtOnce_noFlips (s := waiting) hpending hpower (by rw [hactive]; exact hflips)
          rw [hset, hpointerScreen] at happly
          simp only [told, ← pointerScreen_iff hcanvas hpointer hplaced]
          exact happly

end Sys2Proof.Machine
end

section
/-! Applying a preset (R144 to R147): its screens one at a time, the focus step, and the reply. -/

namespace Sys2Proof.Machine

variable {s t u : State} {scr : ScreenId} {p : Preset}

/-- The walk of a chain reads the tile records and the screens alone. -/
theorem checkChain_congr {l l' : Lco} (htiles : l'.tiles = l.tiles) (hscreens : l'.screens = l.screens) (scr : ScreenId)
    (start : Option TileId) : l'.checkChain scr start = l.checkChain scr start := by
  have hchains (o : ScreenId) (r : TileId) : l'.inChains o r = l.inChains o r := by
    simp only [Lco.inChains, Lco.activeChain, Lco.pendingChain, Lco.chain, htiles, hscreens]
  have hwalk (n : Nat) (start : Option TileId) : l'.walk scr n start = l.walk scr n start := by
    induction n generalizing start with
    | zero => cases start <;> rfl
    | succ n ih =>
      cases start with
      | none => rfl
      | some r => simp only [Lco.walk, htiles, hscreens, hchains, ih]
  exact hwalk 32 start

/-! ### One screen -/

theorem State.takeEntry_unplaced {start : Option TileId} (h : s.lco.screens[scr].placed = false) :
    s.takeEntry scr (.chain start) = (s, .notPlaced) := if_pos (by rw [h]; rfl)

theorem State.takeEntry_failed {start : Option TileId} {f : WalkFailure} {r : TileId} (hplaced : s.lco.screens[scr].placed = true)
    (h : s.lco.checkChain scr start = some (f, r)) : s.takeEntry scr (.chain start) = (s, .chainInvalid f r) := by
  unfold State.takeEntry
  dsimp only
  rw [if_neg (by rw [hplaced]; exact Bool.false_ne_true), h]

theorem State.takeEntry_lit {start : Option TileId} (hplaced : s.lco.screens[scr].placed = true)
    (h : s.lco.checkChain scr start = none) (hlit : ∀ forced, s.wpc.power[scr] ≠ .standby forced) :
    s.takeEntry scr (.chain start) =
      (s.setLco (s.lco.setScreen scr { s.lco.screens[scr] with pending := some start }), .pending) := by
  unfold State.takeEntry
  dsimp only
  rw [if_neg (by rw [hplaced]; exact Bool.false_ne_true), h, State.takeChain_lit hlit]

theorem State.takeEntry_standby {start : Option TileId} {forced : Bool} (hplaced : s.lco.screens[scr].placed = true)
    (h : s.lco.checkChain scr start = none) (hpower : s.wpc.power[scr] = .standby forced) :
    s.takeEntry scr (.chain start) =
      ((s.setLco (s.lco.setScreen scr { s.lco.screens[scr] with pending := some start })).applyAtOnce State.reevaluate scr,
        .appliedAtOnce) := by
  unfold State.takeEntry
  dsimp only
  rw [if_neg (by rw [hplaced]; exact Bool.false_ne_true), h, State.takeChain_standby hpower]

/-! ### All screens -/

theorem takeEntries_cons (o : ScreenId) (l : List ScreenId) (s : State) : State.takeEntries p (o :: l) s =
    ((State.takeEntries p l (s.takeEntry o p.screens[o]).1).1,
      (s.takeEntry o p.screens[o]).2 :: (State.takeEntries p l (s.takeEntry o p.screens[o]).1).2) := rfl

theorem takeEntries_append (l m : List ScreenId) (s : State) : State.takeEntries p (l ++ m) s =
    ((State.takeEntries p m (State.takeEntries p l s).1).1,
      (State.takeEntries p l s).2 ++ (State.takeEntries p m (State.takeEntries p l s).1).2) := by
  induction l generalizing s with
  | nil => rfl
  | cons o l ih => rw [List.cons_append, takeEntries_cons, takeEntries_cons, ih]; rfl

theorem takeEntries_keep {l : List ScreenId} (h : ∀ o ∈ l, p.screens[o] = .keep) (s : State) :
    State.takeEntries p l s = (s, l.map fun _ => .kept) := by
  induction l with
  | nil => rfl
  | cons o l ih =>
    have hone : s.takeEntry o p.screens[o] = (s, .kept) := by rw [h o List.mem_cons_self]; rfl
    rw [takeEntries_cons, hone, ih fun q hq => h q (List.mem_cons_of_mem _ hq)]
    rfl

/-- A preset that keeps every screen of a list but one takes that one, on the state as it stands. -/
theorem takeEntries_one {l : List ScreenId} (hscr : scr ∈ l) (hnodup : l.Nodup)
    (hothers : ∀ o ∈ l, o ≠ scr → p.screens[o] = .keep) {v : State} {outcome : ScreenOutcome}
    (htaken : s.takeEntry scr p.screens[scr] = (v, outcome)) :
    State.takeEntries p l s = (v, l.map fun o => if o = scr then outcome else .kept) := by
  obtain ⟨before, after, rfl⟩ := List.append_of_mem hscr
  rw [List.nodup_middle, List.nodup_cons, List.mem_append, not_or] at hnodup
  obtain ⟨⟨hb, ha⟩, -⟩ := hnodup
  have hkept {m : List ScreenId} (hm : scr ∉ m) (hsub : ∀ o ∈ m, o ∈ before ++ scr :: after) (w : State) :
      State.takeEntries p m w = (w, m.map fun o => if o = scr then outcome else .kept) := by
    have hne (o : ScreenId) (ho : o ∈ m) : o ≠ scr := fun he => hm (he ▸ ho)
    rw [takeEntries_keep fun o ho => hothers o (hsub o ho) (hne o ho)]
    exact congrArg (Prod.mk w) (List.map_congr_left fun o ho => (if_neg (hne o ho)).symm)
  rw [takeEntries_append, hkept hb fun o ho => List.mem_append_left _ ho, takeEntries_cons, htaken,
    hkept ha fun o ho => List.mem_append_right _ (List.mem_cons_of_mem _ ho), List.map_append, List.map_cons, if_pos rfl]

theorem allScreens_nodup : allScreens.Nodup := by decide

/-- The number of failures where one screen of the eight may have failed. -/
theorem length_failed {f : ScreenId → ScreenOutcome} (h : ∀ o, o ≠ scr → (f o).failed = false) :
    ((allScreens.map f).filter ScreenOutcome.failed).length = if (f scr).failed then 1 else 0 := by
  rw [List.filter_map, List.length_map]
  split_ifs with hfailed
  · have hone : allScreens.filter (ScreenOutcome.failed ∘ f) = [scr] := by
      have heq : allScreens.filter (ScreenOutcome.failed ∘ f) = allScreens.filter (fun o => decide (o = scr)) :=
        List.filter_congr fun o _ => by
          by_cases ho : o = scr
          · subst ho
            simp [hfailed]
          · simp [ho, h o ho]
      have hfilter : ∀ o : ScreenId, allScreens.filter (fun q => decide (q = o)) = [o] := by decide
      rw [heq, hfilter scr]
    rw [hone]
    rfl
  · have hnone : allScreens.filter (ScreenOutcome.failed ∘ f) = [] := List.filter_eq_nil_iff.mpr fun o _ => by
      by_cases ho : o = scr
      · subst ho
        exact hfailed
      · rw [Function.comp_apply, h o ho]
        exact Bool.false_ne_true
    rw [hnone]
    rfl

/-- R144: the screens' entries as a fold that keeps the outcomes' bytes and counts the failures. -/
theorem takeEntries_fold {f : State × List Byte × Nat → ScreenId → State × List Byte × Nat}
    (hf : ∀ v bytes failures o, f (v, bytes, failures) o = ((v.takeEntry o p.screens[o]).1,
      bytes ++ (v.takeEntry o p.screens[o]).2.bytes, failures + if (v.takeEntry o p.screens[o]).2.failed then 1 else 0))
    (l : List ScreenId) (v : State) (bytes : List Byte) (failures : Nat) :
    l.foldl f (v, bytes, failures) = ((State.takeEntries p l v).1,
      bytes ++ (State.takeEntries p l v).2.flatMap ScreenOutcome.bytes,
      failures + ((State.takeEntries p l v).2.filter ScreenOutcome.failed).length) := by
  induction l generalizing v bytes failures with
  | nil => simp [State.takeEntries]
  | cons o l ih =>
    rw [List.foldl_cons, hf, ih, takeEntries_cons, List.flatMap_cons, List.append_assoc, List.filter_cons]
    cases (v.takeEntry o p.screens[o]).2.failed
    · rfl
    · simp only [if_true, List.length_cons, Nat.add_assoc, Nat.add_comm 1]

/-! ### The request -/

theorem exec_applyPreset_empty {tag : Byte} {rest : List Request} {n : PresetId} {time : Time}
    (hasks : s.Asks 0x0E tag [byte n.val] rest) (h : s.lco.presets[n] = none) :
    exec (.applyPreset time) s = .next ((s.at time).answered 0x0E tag rest [9]) := by
  refine requestApplyPreset_keeps.exec_asks hasks (rep := .bare .wrongState) ?_
  have hindex : index 16 (at8 [byte n.val] 0) = some n := index_byte (by decide) n
  have happly : (s.at time).applyPreset n = none := congrArg (Option.map _) h
  rw [requestApplyPreset, if_neg (by simp), hindex]
  simp only [happly]

theorem State.applyWritten_eq (n : PresetId) (p : Preset) (s : State) : s.applyWritten n p =
    (let taken := State.takeEntries p allScreens (s.setLco { s.lco with lastPreset := some n })
     let focused := taken.1.presetFocus p
     (focused.1.notify (.presetResult n (taken.2.flatMap ScreenOutcome.bytes) focused.2),
       { screens := taken.2, focus := focused.2 })) := rfl

/-- R144 to R147: what the screens and then the focus step come to, told and answered. -/
theorem exec_applyPreset_written {tag : Byte} {rest : List Request} {n : PresetId} {time : Time}
    (hasks : s.Asks 0x0E tag [byte n.val] rest) (h : s.lco.presets[n] = some p) {v w : State} {outcomes : List ScreenOutcome}
    {focus : Byte} {bytes : List Byte} {failures : Nat}
    (hscreens : State.takeEntries p allScreens { s.at time with lco := { s.lco with lastPreset := some n } } = (v, outcomes))
    (hfocus : v.presetFocus p = (w, focus)) (hbytes : outcomes.flatMap ScreenOutcome.bytes = bytes)
    (hfailures : (outcomes.filter ScreenOutcome.failed).length = failures) :
    exec (.applyPreset time) s =
      .next ((w.notify (.presetResult n bytes focus)).answered 0x0E tag rest [0, byte failures, focus]) := by
  subst hbytes hfailures
  refine requestApplyPreset_keeps.exec_asks hasks (rep := .okWith (PresetOutcome.bytes { screens := outcomes, focus := focus })) ?_
  have hindex : index 16 (at8 [byte n.val] 0) = some n := index_byte (by decide) n
  have hbase : (s.at time).setLco { (s.at time).lco with lastPreset := some n } =
      { s.at time with lco := { s.lco with lastPreset := some n } } := rfl
  have hwritten : (s.at time).applyWritten n p =
      (w.notify (.presetResult n (outcomes.flatMap ScreenOutcome.bytes) focus), { screens := outcomes, focus := focus }) := by
    rw [State.applyWritten_eq, hbase, hscreens]
    dsimp only
    rw [hfocus]
  have happly : (s.at time).applyPreset n = some _ := (congrArg (Option.map _) h).trans (congrArg some hwritten)
  rw [requestApplyPreset, if_neg (by simp), hindex]
  simp only [happly]

theorem State.presetFocus_none (h : p.focus = none) : s.presetFocus p = (s, 3) := by
  rw [State.presetFocus, h]

theorem State.presetFocus_some {c : Comp} (h : p.focus = some c) :
    s.presetFocus p = (s.requestFocus c .preset false, (s.fcu.judge c .preset false).code) := by
  rw [State.presetFocus, h]

/-- Settles O49. -/
theorem applyPresetTakesItsScreens : Obligations.ApplyPresetTakesItsScreens := by
  unfold Obligations.ApplyPresetTakesItsScreens
  intro t s tag rest n hasks u applied
  refine ⟨exec_applyPreset_empty hasks, fun p hp => ⟨fun hkeep => ?keep, ?one, ?all, ?two⟩⟩
  case keep =>
    have hscreens := takeEntries_keep (fun o (_ : o ∈ allScreens) => hkeep o) applied
    exact ⟨fun hfocus => exec_applyPreset_written hasks hp hscreens (State.presetFocus_none hfocus) rfl rfl,
      fun c hfocus => exec_applyPreset_written hasks hp hscreens (State.presetFocus_some hfocus) rfl rfl⟩
  case one =>
    intro scr start hfocus hchain hothers bytes result waiting
    have hresult {v : State} {outcome : ScreenOutcome} {mine : List Byte} {failures : Nat}
        (htaken : applied.takeEntry scr (.chain start) = (v, outcome)) (hmine : outcome.bytes = mine)
        (hfailures : (if outcome.failed then 1 else 0) = failures) :
        exec (.applyPreset t) s = .next (result v mine (byte failures)) := by
      have hscreens := takeEntries_one (s := applied) (v := v) (outcome := outcome) (mem_allScreens scr) allScreens_nodup
        (fun o _ => hothers o) (by rw [hchain]; exact htaken)
      refine exec_applyPreset_written hasks hp hscreens (State.presetFocus_none hfocus) ?_ ?_
      · rw [List.flatMap_map, ← hmine]
        exact congrArg (allScreens.flatMap ·) (funext fun o => apply_ite ScreenOutcome.bytes _ _ _)
      · rw [length_failed (scr := scr) fun o ho => by rw [if_neg ho]; rfl, if_pos rfl]
        exact hfailures
    have hsame : applied.lco.checkChain scr start = s.lco.checkChain scr start :=
      checkChain_congr (l := s.lco) (l' := applied.lco) rfl rfl scr start
    rw [← hsame]
    refine ⟨fun hplaced => hresult (State.takeEntry_unplaced (s := applied) hplaced) rfl rfl, fun hplaced =>
      ⟨fun f r hcheck => hresult (State.takeEntry_failed (s := applied) hplaced hcheck) rfl rfl, fun hcheck =>
        ⟨fun hlit => hresult (State.takeEntry_lit (s := applied) hplaced hcheck hlit) rfl rfl, ?_⟩⟩⟩
    rintro ⟨forced, hpower⟩
    exact hresult (State.takeEntry_standby (s := applied) hplaced hcheck hpower) rfl rfl
  case all =>
    intro entry taken focused
    have hentry (v : State) (bytes : List Byte) (failures : Nat) (o : ScreenId) :
        entry (v, bytes, failures) o = ((v.takeEntry o p.screens[o]).1, bytes ++ (v.takeEntry o p.screens[o]).2.bytes,
          failures + if (v.takeEntry o p.screens[o]).2.failed then 1 else 0) := by
      cases hscreen : p.screens[o] with
      | keep =>
        simp only [entry, hscreen]
        rfl
      | chain start =>
        cases hplaced : v.lco.screens[o].placed with
        | false =>
          simp only [entry, hscreen, hplaced, State.takeEntry_unplaced hplaced]
          rfl
        | true =>
          cases hcheck : v.lco.checkChain o start with
          | some failure =>
            simp only [entry, hscreen, hplaced, hcheck, State.takeEntry_failed hplaced hcheck]
            rfl
          | none =>
            cases hpower : v.wpc.power[o] with
            | standby forced =>
              simp only [entry, hscreen, hplaced, hcheck, hpower, State.takeEntry_standby hplaced hcheck hpower]
              rfl
            | active =>
              simp only [entry, hscreen, hplaced, hcheck, hpower,
                State.takeEntry_lit hplaced hcheck (fun forced => by rw [hpower]; nofun)]
              rfl
            | darkHold deadline =>
              simp only [entry, hscreen, hplaced, hcheck, hpower,
                State.takeEntry_lit hplaced hcheck (fun forced => by rw [hpower]; nofun)]
              rfl
    have htaken : taken = ((State.takeEntries p allScreens applied).1,
        (State.takeEntries p allScreens applied).2.flatMap ScreenOutcome.bytes,
        ((State.takeEntries p allScreens applied).2.filter ScreenOutcome.failed).length) := by
      refine (takeEntries_fold hentry allScreens applied [] 0).trans ?_
      rw [List.nil_append, Nat.zero_add]
    have hfocused : taken.1.presetFocus p = focused := by
      cases hfocus : p.focus with
      | none =>
        simp only [focused, hfocus]
        exact State.presetFocus_none hfocus
      | some c =>
        simp only [focused, hfocus]
        refine (State.presetFocus_some hfocus).trans (congrArg (Prod.mk _) ?_)
        cases taken.1.fcu.judge c .preset false <;> rfl
    exact exec_applyPreset_written hasks hp (v := taken.1) (w := focused.1) (focus := focused.2) (by rw [htaken]) hfocused
      (by rw [htaken]) (by rw [htaken])
  case two =>
    intro a b r hlt hfocus ha hb hothers haplaced hbplaced hcheck hlit
    let lower := allScreens.filter (fun o => decide (o ≤ a))
    let upper := allScreens.filter (fun o => decide (a < o))
    have hsplit : allScreens = lower ++ upper := by
      have hall : ∀ a : ScreenId, allScreens = allScreens.filter (fun o => decide (o ≤ a)) ++
        allScreens.filter (fun o => decide (a < o)) := by decide
      exact hall a
    let waiting : State := { u with lco := { s.lco with
      lastPreset := some n, screens := s.lco.screens.set a { s.lco.screens[a] with pending := some (some r) } } }
    have hsame : applied.lco.checkChain a (some r) = s.lco.checkChain a (some r) :=
      checkChain_congr (l := s.lco) (l' := applied.lco) rfl rfl a (some r)
    have hfirst : applied.takeEntry a p.screens[a] = (waiting, .pending) := by
      rw [ha]
      exact State.takeEntry_lit (s := applied) haplaced (hsame.trans hcheck) hlit
    have hsecond : waiting.takeEntry b p.screens[b] = (waiting, .chainInvalid .ownedElsewhere r) := by
      obtain ⟨⟨tile, htile, -, -⟩, -⟩ := walk_ends s.lco a 32 (some r) hcheck
      have hscreen : waiting.lco.screens[a] = { s.lco.screens[a] with pending := some (some r) } := Vector.getElem_set_self a.isLt
      have hplaced : waiting.lco.screens[b].placed = true := by
        have hother : waiting.lco.screens[b] = s.lco.screens[b] :=
          Vector.getElem_set_ne a.isLt b.isLt fun h => hlt.ne (Fin.ext h)
        rw [hother]
        exact hbplaced
      have hnamed : waiting.lco.inChains a r = true := by
        have hchain : r ∈ s.lco.chain (some r) := by
          rw [Lco.chain, followChain, htile]
          exact List.mem_cons_self
        rw [Lco.inChains, Bool.or_eq_true]
        right
        rw [Lco.pendingChain, hscreen]
        exact List.contains_iff_mem.mpr hchain
      rw [hb]
      exact State.takeEntry_failed hplaced (walk_owned htile ⟨a, hlt.ne, hnamed⟩)
    have hlower := takeEntries_one (l := lower) (List.mem_filter.mpr ⟨mem_allScreens a, decide_eq_true le_rfl⟩)
      (allScreens_nodup.filter _) (fun o ho hoa => hothers o hoa fun hob =>
        absurd (of_decide_eq_true (List.mem_filter.mp ho).2) (by rw [hob]; exact hlt.not_ge)) hfirst
    have hupper := takeEntries_one (l := upper) (List.mem_filter.mpr ⟨mem_allScreens b, decide_eq_true hlt⟩)
      (allScreens_nodup.filter _) (fun o ho hob => hothers o (fun hoa =>
        absurd (of_decide_eq_true (List.mem_filter.mp ho).2) (by rw [hoa]; exact lt_irrefl a)) hob) hsecond
    let outcome (o : ScreenId) : ScreenOutcome :=
      if o = a then .pending else if o = b then .chainInvalid .ownedElsewhere r else .kept
    have hscreens : State.takeEntries p allScreens applied = (waiting, allScreens.map outcome) := by
      have htaken : State.takeEntries p (lower ++ upper) applied = (waiting, (lower ++ upper).map outcome) := by
        rw [takeEntries_append, hlower, hupper, List.map_append]
        refine congrArg (Prod.mk waiting) (congrArg₂ (· ++ ·) ?_ ?_)
        · refine List.map_congr_left fun o ho => ?_
          have hob : o ≠ b := fun hob => absurd (of_decide_eq_true (List.mem_filter.mp ho).2) (by rw [hob]; exact hlt.not_ge)
          simp only [outcome, if_neg hob]
        · refine List.map_congr_left fun o ho => ?_
          have hoa : o ≠ a := fun hoa => absurd (of_decide_eq_true (List.mem_filter.mp ho).2) (by rw [hoa]; exact lt_irrefl a)
          simp only [outcome, if_neg hoa]
      rw [← hsplit] at htaken
      exact htaken
    refine exec_applyPreset_written hasks hp hscreens (State.presetFocus_none hfocus) ?_ ?_
    · rw [List.flatMap_map]
      refine congrArg (allScreens.flatMap ·) (funext fun o => ?_)
      simp only [outcome, apply_ite ScreenOutcome.bytes]
      rfl
    · rw [length_failed (scr := b) fun o hob => ?_]
      · simp only [outcome, if_neg hlt.ne']
        rfl
      · simp only [outcome, if_neg hob]
        split_ifs <;> rfl

end Sys2Proof.Machine
end

section
/-! Drawing (R137 to R139): the layers of a frame, and what one pixel of it shows. -/

namespace Sys2Proof.Machine

variable {s : State} {scr : ScreenId} {x y : Nat}

/-! ### The cells of a grid lie within the tile -/

/-- R85, one axis: each part lies within the whole. -/
theorem gridPart_within {origin length n k : Nat} (hk : k < n) :
    origin ≤ (gridPart origin length n k).1 ∧
      (gridPart origin length n k).1 + (gridPart origin length n k).2 ≤ origin + length := by
  obtain ⟨m, rfl⟩ : ∃ m, n = m + 1 := ⟨n - 1, by omega⟩
  have hfits : length / (m + 1) * (m + 1) ≤ length := Nat.div_mul_le_self length (m + 1)
  unfold gridPart
  dsimp only
  generalize length / (m + 1) = base at hfits ⊢
  rw [Nat.mul_succ] at hfits
  rw [Nat.add_sub_cancel]
  refine ⟨Nat.le_add_right _ _, ?_⟩
  by_cases hlast : k = m
  · subst hlast
    rw [if_pos rfl, Nat.mul_comm k base]
    omega
  · have hle : (k + 1) * base ≤ m * base := Nat.mul_le_mul_right base (by omega)
    rw [Nat.succ_mul] at hle
    rw [if_neg (by omega)]
    rw [Nat.mul_comm base m] at hfits
    omega

theorem cellRect_within {rect : Rect} {columns rows i : Nat} (hi : i < columns * rows)
    (hin : (cellRect rect columns rows i).contains x y = true) : rect.contains x y = true := by
  have hcolumns : 0 < columns := Nat.pos_of_mul_pos_right (Nat.zero_lt_of_lt hi)
  have hx := gridPart_within (origin := rect.x) (length := rect.w) (Nat.mod_lt i hcolumns)
  have hy := gridPart_within (origin := rect.y) (length := rect.h) (Nat.div_lt_of_lt_mul hi)
  rw [cellRect_contains_iff] at hin
  simp only [Rect.contains, Bool.and_eq_true, decide_eq_true_eq]
  omega

/-! ### The layers over a pixel -/

/-- R137: the last layer over a pixel. -/
theorem Image.pixelAt_last {img : Image} {before after : List Layer} {layer : Layer} (h : img.layers = before ++ layer :: after)
    (hin : layer.rect.contains x y = true) (hafter : ∀ l ∈ after, ¬ l.rect.contains x y = true) :
    img.pixelAt x y = layer.pixelAt img.background x y := by
  have hnone : after.filter (fun l => l.rect.contains x y) = [] := List.filter_eq_nil_iff.mpr hafter
  rw [Image.pixelAt, h, List.filter_append, List.filter_cons_of_pos (p := fun l : Layer => l.rect.contains x y) hin, hnone, List.getLast?_concat]

theorem Image.pixelAt_none {img : Image} (h : ∀ l ∈ img.layers, ¬ l.rect.contains x y = true) :
    img.pixelAt x y = .colour img.background := by
  have hnone : img.layers.filter (fun l => l.rect.contains x y) = [] := List.filter_eq_nil_iff.mpr h
  rw [Image.pixelAt, hnone]
  rfl

/-- R137, R138: the layers of the records of a chain, in the chain's order. -/
def State.chainLayers (s : State) (chain : List TileId) : List Layer :=
  chain.flatMap fun r => (s.lco.tiles[r].map s.tileLayers).getD []

theorem State.frame_layers (s : State) (scr : ScreenId) : (s.frame scr).layers = s.chainLayers (s.lco.activeChain scr) := by
  refine congrArg (fun f => (s.lco.activeChain scr).flatMap f) (funext fun r => ?_)
  cases s.lco.tiles[r] <;> rfl

/-- Each layer of a lawful tile lies within it. -/
theorem State.tileLayers_within {tile : Tile} (hlaw : tile.Lawful) {l : Layer} (hl : l ∈ s.tileLayers tile)
    (hin : l.rect.contains x y = true) : tile.rect.contains x y = true := by
  obtain ⟨next, rect, kind⟩ := tile
  cases kind with
  | single p a showing f view b =>
    rw [List.mem_singleton.mp hl] at hin
    exact hin
  | fill colour =>
    rw [List.mem_singleton.mp hl] at hin
    exact hin
  | grid columns rows cells b =>
    obtain ⟨⟨cell, i⟩, hmem, rfl⟩ := List.mem_map.mp hl
    have hlength : cells.length = columns * rows := hlaw.2.2.2.2.2.2.2.2
    have hi : i < columns * rows := by
      rw [← hlength]
      exact (List.mem_zipIdx' hmem).1
    refine cellRect_within hi ?_
    cases cell <;> exact hin

theorem State.chainLayers_none (hlaw : s.lco.TileLaw) {chain : List TileId}
    (h : ∀ r ∈ chain, ¬ ∃ tile, s.lco.tiles[r] = some tile ∧ tile.rect.contains x y = true) :
    ∀ l ∈ s.chainLayers chain, ¬ l.rect.contains x y = true := by
  intro l hl hin
  obtain ⟨r, hr, hlayer⟩ := List.mem_flatMap.mp hl
  cases htile : s.lco.tiles[r] with
  | none =>
    rw [htile] at hlayer
    exact nomatch hlayer
  | some tile =>
    rw [htile] at hlayer
    exact h r hr ⟨tile, htile, State.tileLayers_within (hlaw r tile htile) hlayer hin⟩

/-- R137: the pixel is that of the last layer over it of the last tile that holds it. -/
theorem State.pixelAt_of_tile (hlaw : s.lco.TileLaw) {before after : List TileId} {r : TileId} {tile : Tile}
    (hchain : s.lco.activeChain scr = before ++ r :: after) (htile : s.lco.tiles[r] = some tile)
    (hafter : ∀ q ∈ after, ¬ ∃ tile, s.lco.tiles[q] = some tile ∧ tile.rect.contains x y = true)
    {first later : List Layer} {layer : Layer} (hlayers : s.tileLayers tile = first ++ layer :: later)
    (hin : layer.rect.contains x y = true) (hlater : ∀ l ∈ later, ¬ l.rect.contains x y = true) :
    (s.frame scr).pixelAt x y = layer.pixelAt s.lco.screens[scr].background x y := by
  have hsplit : (s.frame scr).layers = (s.chainLayers before ++ first) ++ layer :: (later ++ s.chainLayers after) := by
    rw [State.frame_layers, hchain]
    unfold State.chainLayers
    rw [List.flatMap_append, List.flatMap_cons, htile, Option.map_some, Option.getD_some, hlayers]
    simp only [List.append_assoc, List.cons_append]
  refine Image.pixelAt_last hsplit hin fun l hl => ?_
  rcases List.mem_append.mp hl with hl | hl
  · exact hlater l hl
  · exact State.chainLayers_none hlaw hafter l hl

/-- R138: the layer of one cell of a grid. -/
def State.cellLayer (s : State) (rect : Rect) (columns rows border i : Nat) (cell : Option HeadId) : Layer :=
  match cell with
  | some h => s.headLayer (cellRect rect columns rows i) .whole border h
  | none => { rect := cellRect rect columns rows i, content := .background, border := none }

theorem State.cellLayer_rect (s : State) (rect : Rect) (columns rows border i : Nat) (cell : Option HeadId) :
    (s.cellLayer rect columns rows border i cell).rect = cellRect rect columns rows i := by
  cases cell <;> rfl

/-- R85, R138: over a pixel of a grid lies the layer of the pixel's cell, and no later one. -/
theorem State.tileLayers_grid {tile : Tile} {columns rows b : Nat} {cells : List (Option HeadId)} {cell : Option HeadId}
    (hlaw : tile.Lawful) (hkind : tile.kind = .grid columns rows cells b) (hin : tile.rect.contains x y = true)
    (hcell : cells[cellAt tile.rect columns rows x y]? = some cell) :
    ∃ first later, s.tileLayers tile =
        first ++ s.cellLayer tile.rect columns rows b (cellAt tile.rect columns rows x y) cell :: later ∧
      (cellRect tile.rect columns rows (cellAt tile.rect columns rows x y)).contains x y = true ∧
      ∀ l ∈ later, ¬ l.rect.contains x y = true := by
  have hgrid := hlaw.2
  rw [hkind] at hgrid
  obtain ⟨-, hcolumns, -, hrows, -, hwide, hhigh, hlength⟩ := hgrid
  obtain ⟨hsmall, hholds⟩ := cellRect_contains_iff_cellAt hcolumns hrows hwide hhigh hin
  generalize cellAt tile.rect columns rows x y = i at hcell hsmall hholds ⊢
  let layer (c : Option HeadId × Nat) : Layer := s.cellLayer tile.rect columns rows b c.2 c.1
  have hlayers : s.tileLayers tile = cells.zipIdx.map layer := by
    unfold State.tileLayers
    rw [hkind]
    refine List.map_congr_left fun c _ => ?_
    obtain ⟨cell, j⟩ := c
    cases cell <;> rfl
  obtain ⟨hi, rfl⟩ := List.getElem?_eq_some_iff.mp hcell
  have hi' : i < cells.zipIdx.length := by rw [List.length_zipIdx]; exact hi
  have hsplit : cells.zipIdx = cells.zipIdx.take i ++ (cells[i], i) :: cells.zipIdx.drop (i + 1) := by
    have hget : cells.zipIdx[i] = (cells[i], i) := by rw [List.getElem_zipIdx, Nat.zero_add]
    rw [← hget, List.getElem_cons_drop, List.take_append_drop]
  refine ⟨(cells.zipIdx.take i).map layer, (cells.zipIdx.drop (i + 1)).map layer, ?_, (hholds i hsmall).mpr rfl, fun l hl hover => ?_⟩
  · rw [hlayers]
    conv_lhs => rw [hsplit]
    rw [List.map_append, List.map_cons]
  · obtain ⟨⟨c, j⟩, hmem, rfl⟩ := List.mem_map.mp hl
    rw [show (layer (c, j)).rect = _ from s.cellLayer_rect _ _ _ _ _ _] at hover
    obtain ⟨k, hk, hget⟩ := List.getElem_of_mem hmem
    rw [List.getElem_drop, List.getElem_zipIdx, Prod.mk.injEq] at hget
    rw [List.length_drop, List.length_zipIdx] at hk
    have hji : j = i := (hholds j (by rw [← hlength]; omega)).mp hover
    omega

/-! ### Borders (R139) -/

theorem Rect.nearEdge_iff (r : Rect) (b x y : Nat) :
    r.nearEdge b x y = true ↔ x < r.x + b ∨ r.x + r.w ≤ x + b ∨ y < r.y + b ∨ r.y + r.h ≤ y + b := by
  simp only [Rect.nearEdge, Bool.or_eq_true, decide_eq_true_eq, or_assoc]

theorem Rect.nearEdge_zero {r : Rect} (hin : r.contains x y = true) : r.nearEdge 0 x y = false := by
  simp only [Rect.contains, Bool.and_eq_true, decide_eq_true_eq] at hin
  rw [Bool.eq_false_iff, Ne, Rect.nearEdge_iff]
  omega

theorem State.borderFor_width {b width : Nat} {shown : Option Comp} {colour : Colour}
    (h : s.borderFor b shown = some (width, colour)) : b = width := by
  unfold State.borderFor at h
  split at h
  · exact nomatch h
  · split at h
    · exact nomatch h
    · split at h
      · injection h with h
        injection h
      · split at h
        · injection h with h
          injection h
        · exact nomatch h

/-- R139: the border over a pixel of a head, and the head's content under it. -/
theorem State.headLayer_pixelAt {rect : Rect} (hin : rect.contains x y = true) (view : View) (b : Nat) (h : HeadId)
    (background : Colour) {near : Prop} [Decidable near] (hnear : rect.nearEdge b x y = true ↔ near) :
    (s.headLayer rect view b h).pixelAt background x y =
      if near ∧ s.lco.heads[h].owner = some s.fcu.focus then
        .colour (if s.fcu.lock = .none then s.lco.borders.focus else s.lco.borders.lock)
      else if near ∧ s.lco.heads[h].owner ≠ none ∧ s.fcu.pending.map Pending.target = s.lco.heads[h].owner then
        .colour s.lco.borders.pending
      else (s.headLayer rect view b h).contentAt background x y := by
  have hborder : (s.headLayer rect view b h).border = s.borderFor b s.lco.heads[h].owner := rfl
  have hrect : (s.headLayer rect view b h).rect = rect := rfl
  unfold Layer.pixelAt
  rw [hborder, hrect]
  by_cases hn : near
  · have hwidth : b ≠ 0 := by
      rintro rfl
      rw [Rect.nearEdge_zero hin] at hnear
      exact nomatch hnear.mpr hn
    cases howner : s.lco.heads[h].owner with
    | none => simp [State.borderFor]
    | some c =>
      by_cases hfocus : s.fcu.focus = c
      · simp [State.borderFor, hwidth, hnear, hn, hfocus]
      · by_cases hpending : s.fcu.pending.map Pending.target = some c
        · simp [State.borderFor, hwidth, hnear, hn, hfocus, Ne.symm hfocus, hpending]
        · simp [State.borderFor, hwidth, hfocus, Ne.symm hfocus, hpending]
  · have hfar : rect.nearEdge b x y = false := Bool.eq_false_iff.mpr (mt hnear.mp hn)
    simp only [hn, false_and, if_false]
    cases hover : s.borderFor b s.lco.heads[h].owner with
    | none => rfl
    | some border =>
      obtain ⟨width, colour⟩ := border
      have hwidth := State.borderFor_width hover
      subst hwidth
      exact if_neg (by rw [hfar]; exact Bool.false_ne_true)

/-- Settles O47: the layer over the pixel, by the kind of its tile. -/
theorem framesDrawTilesAndBorders : Obligations.FramesDrawTilesAndBorders := by
  unfold Obligations.FramesDrawTilesAndBorders
  refine ⟨fun t s tag f0 f1 f2 l0 l1 l2 p0 p1 p2 rest hasks => ?_, ?_⟩
  · exact requestSetBorderColours_keeps.exec_asks hasks (rep := .bare .ok) rfl
  · intro s scr x y hlaw pixel background holds shows
    have hshows {rect : Rect} (hin : rect.contains x y = true) (view : View) (b : Nat) (h : HeadId) :
        (s.headLayer rect view b h).pixelAt s.lco.screens[scr].background x y = shows rect view b h := by
      refine (State.headLayer_pixelAt hin view b h _ (rect.nearEdge_iff b x y)).trans ?_
      cases view <;> rfl
    refine ⟨fun hnone => ?_, fun before r after tile hchain htile hin hafter => ?_⟩
    · refine Image.pixelAt_none ?_
      rw [State.frame_layers]
      exact State.chainLayers_none hlaw hnone
    · have hone (layer : Layer) (hlayers : s.tileLayers tile = [layer]) (hrect : layer.rect = tile.rect) :
          pixel = layer.pixelAt s.lco.screens[scr].background x y :=
        State.pixelAt_of_tile hlaw hchain htile hafter (first := []) (later := []) hlayers (by rw [hrect]; exact hin) nofun
      refine ⟨fun colour hkind => ?_, fun p a f view b hkind => ?_, fun p a f view b hkind => ?_, fun columns rows cells b hkind => ?_⟩
      · exact hone { rect := tile.rect, content := .colour colour, border := none } (by simp only [State.tileLayers, hkind]) rfl
      · have hlayers : s.tileLayers tile = [s.headLayer tile.rect view b p] := by
          simp only [State.tileLayers, hkind, showingHead]
        exact (hone _ hlayers rfl).trans (hshows hin view b p)
      · have hlayers : s.tileLayers tile = [s.headLayer tile.rect view b a] := by
          simp only [State.tileLayers, hkind, showingHead, Option.getD_some]
        exact (hone _ hlayers rfl).trans (hshows hin view b a)
      · intro i
        refine ⟨fun h hcell => ?_, fun hcell => ?_⟩
        · obtain ⟨first, later, hlayers, hover, hlater⟩ := State.tileLayers_grid (s := s) (hlaw r tile htile) hkind hin hcell
          exact (State.pixelAt_of_tile hlaw hchain htile hafter hlayers hover hlater).trans (hshows hover .whole b h)
        · obtain ⟨first, later, hlayers, hover, hlater⟩ := State.tileLayers_grid (s := s) (hlaw r tile htile) hkind hin hcell
          exact State.pixelAt_of_tile hlaw hchain htile hafter hlayers hover hlater

end Sys2Proof.Machine
end

section
/-! The desk input gate (R158): what it does with each event in each state of the desk, and the reports that wake an ASLEEP desk. -/

namespace Sys2Proof.Machine

variable {s t u : State}

/-! ### Waking by input -/

/-- The desk AWAKE with its notice, before the screens leave forced standby. -/
def State.roused (s : State) : State :=
  { s with
    wpc := { s.wpc with desk := .awake, awaited := 0 }
    clp := s.clp.queueNotice (.deskState .awake s.wpc.desk .input s.wpc.awaited (s.notAsleep s.wpc.awaited)) }

theorem State.wakeDesk_input (s : State) : s.wakeDesk .input = allScreens.foldl State.leaveForced s.roused := s.wakeDesk_eq .input

theorem State.wakeDeskByInput_eq (s : State) : s.wakeDeskByInput =
    if (s.comp s.fcu.focus).port = .suspended then (allScreens.foldl State.leaveForced s.roused).wake State.reevaluate s.fcu.focus .desk
    else allScreens.foldl State.leaveForced s.roused := by
  have hshows : s.roused.Shows (allScreens.foldl State.leaveForced s.roused) :=
    State.shows_foldl (D := fun _ => True) (fun v scr => (State.shows_leaveForced v scr).always) allScreens s.roused trivial
  have hfocus : (allScreens.foldl State.leaveForced s.roused).fcu.focus = s.fcu.focus := by
    rw [hshows.fcu]
    rfl
  have hcomp : (allScreens.foldl State.leaveForced s.roused).comp s.fcu.focus = s.comp s.fcu.focus := hshows.comp s.fcu.focus
  simp only [State.wakeDeskByInput, s.wakeDesk_input, hfocus, hcomp]

/-! ### The gate of an ASLEEP desk -/

theorem State.gate_consumes (hdesk : s.wpc.desk = .asleep) {e : DeskEvent} (hbreak : e.isBreak = false)
    (hrouses : e.rouses = false) : s.gate e = (s, false) := by
  simp only [State.gate, hdesk, hbreak, hrouses, Bool.false_eq_true, if_false]

theorem State.gate_wakes (hdesk : s.wpc.desk = .asleep) {e : DeskEvent} (hbreak : e.isBreak = false) (hrouses : e.rouses = true) :
    s.gate e = (s.wakeDeskByInput.markConsumed e, false) := by
  simp only [State.gate, hdesk, hbreak, hrouses, Bool.false_eq_true, if_false, if_true]

theorem State.handOn_consumed (hdesk : s.wpc.desk = .asleep) {e : DeskEvent} (hbreak : e.isBreak = false)
    (hrouses : e.rouses = false) : s.handOn e = s := by
  simp only [State.handOn, State.gate_consumes hdesk hbreak hrouses]

theorem State.handOn_wakes (hdesk : s.wpc.desk = .asleep) {e : DeskEvent} (hbreak : e.isBreak = false) (hrouses : e.rouses = true) :
    s.handOn e = s.wakeDeskByInput.markConsumed e := by
  simp only [State.handOn, State.gate_wakes hdesk hbreak hrouses]

/-- R158: a report of a small movement and the wheel, with the buttons unchanged, is consumed whole. -/
theorem State.takeMoveReport_small (hdesk : s.wpc.desk = .asleep) {p : DeskPortId} {held : Buttons} {dx dy w : Int}
    (hsmall : largeMotion dx dy = false) :
    s.takeMoveReport p held { buttons := held, dx := dx, dy := dy, wheel := w } = s := by
  have hmotion : s.handOn (.motion p dx dy) = s := State.handOn_consumed hdesk rfl hsmall
  have hwheel : s.handOn (.wheel p w) = s := State.handOn_consumed hdesk rfl rfl
  simp only [State.takeMoveReport, hmotion, hwheel, buttonList_unchanged, List.foldl_nil, ite_self]

/-- Settles O54: the gate by the kind of event, and each report by the one event it makes. -/
theorem theGateWakesTheDesk : Obligations.TheGateWakesTheDesk := by
  unfold Obligations.TheGateWakesTheDesk
  intro t p s woken marked clean report
  have hwoken (u : State) (hwpc : u.wpc = s.wpc) (hclp : u.clp = s.clp) (hcps : u.cps = s.cps) (hfcu : u.fcu = s.fcu)
      (hasleep : s.wpc.desk = .asleep) : u.wakeDeskByInput = woken u := by
    have hcomp (c : Comp) : u.comp c = s.comp c := by simp only [State.comp, hcps]
    have hroused : u.roused = { u with
        wpc := { s.wpc with desk := .awake, awaited := 0 }
        clp := s.clp.queueNotice (.deskState .awake .asleep .input s.wpc.awaited (s.notAsleep s.wpc.awaited)) } := by
      unfold State.roused
      rw [hwpc, hclp, hasleep, notAsleep_congr (s := s) (fun c => congrArg Computer.port (hcomp c)) s.wpc.awaited]
    rw [State.wakeDeskByInput_eq, hroused, show u.fcu.focus = s.fcu.focus from congrArg Fcu.focus hfcu, hcomp]
  refine ⟨fun hasleep => ⟨?small, ?large, ?press, ?key, ?modifier, ?gate⟩, fun hrequested => ⟨?cancels, ?told⟩, State.gate_awake⟩
  case small =>
    intro b bx bY w hport hsmall
    refine congrArg Host.Outcome.next ((State.pointerReport_of (s := s.at t) hport (reduceMove_of b bx bY [w])).trans ?_)
    exact State.takeMoveReport_small (s := s.at t) hasleep (decide_eq_false (Nat.not_le.mpr hsmall))
  case large =>
    intro b bx bY hport hlarge
    have hmoves : ¬ (bx = 0 ∧ bY = 0) := by
      rintro ⟨rfl, rfl⟩
      exact absurd hlarge (by decide)
    refine congrArg Host.Outcome.next ((State.pointerReport_motion (s := s.at t) hport hmoves).trans ?_)
    let move : DeskEvent := .motion p (deskCount bx) (deskCount bY)
    have hrouses : move.rouses = true := decide_eq_true hlarge
    exact (State.handOn_wakes (s := s.at t) (e := move) hasleep rfl hrouses).trans (hwoken (s.at t) rfl rfl rfl rfl hasleep)
  case press =>
    intro held b hport hup
    refine congrArg Host.Outcome.next ((State.pointerReport_press (s := s.at t) hport hup).trans ?_)
    rw [State.buttonMake, State.at_diu, hport, DeskPort.pressButton]
    let pressed : State := { s.at t with diu := s.diu.set p (.pointer (held ||| (1#5 <<< b.val))) }
    refine (State.handOn_wakes (s := pressed) hasleep rfl rfl).trans ?_
    exact congrArg (marked p b) (hwoken pressed rfl rfl rfl rfl hasleep)
  case key =>
    intro m v before after hport hclean
    refine (exec_key_make hport hclean).trans (congrArg Host.Outcome.next ?_)
    let pressed : State := { s.at t with diu := s.diu.set p (.keyboard m (before ++ v :: after)) }
    exact (State.handOn_wakes (s := pressed) hasleep rfl rfl).trans (hwoken pressed rfl rfl rfl rfl hasleep)
  case modifier =>
    intro m keys k hport hclean hup
    refine (exec_modifier_make hport hclean hup).trans (congrArg Host.Outcome.next ?_)
    let pressed : State := { s.at t with diu := s.diu.set p (.keyboard (m ||| (1#8 <<< k.val)) keys) }
    exact (State.handOn_wakes (s := pressed) hasleep rfl rfl).trans (hwoken pressed rfl rfl rfl rfl hasleep)
  case gate =>
    intro e
    have hs := hwoken s rfl rfl rfl rfl hasleep
    cases e with
    | keyMake q v => rw [State.gate_wakes hasleep rfl rfl, hs]; rfl
    | buttonMake q b => rw [State.gate_wakes hasleep rfl rfl, hs]; rfl
    | keyBreak q v => exact State.gate_break rfl
    | buttonBreak q b => exact State.gate_break rfl
    | wheel q w => exact State.gate_consumes hasleep rfl rfl
    | motion q dx dy =>
      by_cases hlarge : 4 ≤ dx.natAbs + dy.natAbs
      · rw [State.gate_wakes (e := .motion q dx dy) hasleep rfl (decide_eq_true hlarge), hs]
        simp only [if_pos hlarge]
        rfl
      · rw [State.gate_consumes (e := .motion q dx dy) hasleep rfl (decide_eq_false hlarge)]
        simp only [if_neg hlarge]
  case cancels =>
    intro e
    cases e <;> simp only [State.gate, hrequested] <;> rfl
  case told =>
    intro told hroom
    obtain ⟨cps, heq, hcps⟩ := State.cancelSleep_room .input hroom
    rw [hrequested] at heq
    exact ⟨cps, heq, hcps⟩

end Sys2Proof.Machine
end

section
/-! The panel bus (R167 to R171): the transaction that starts next, scans, and the effects of a read and of a write. -/

namespace Sys2Proof.Machine

variable {s t u : State}

/-! ### The first panel that meets a test -/

section
variable {test : Panel → Bool} {l before after : List Panel} {p : Panel}

theorem firstPanel_none (n : Nat) (h : ∀ q ∈ l, ¬ (q.present = true ∧ test q = true)) : firstPanel test n l = none := by
  induction l generalizing n with
  | nil => rfl
  | cons q l ih =>
    rw [firstPanel, if_neg (by rw [Bool.and_eq_true]; exact h q List.mem_cons_self)]
    exact ih _ fun r hr => h r (List.mem_cons_of_mem q hr)

theorem firstPanel_first (n : Nat) (hpresent : p.present = true) (htest : test p = true)
    (hbefore : ∀ q ∈ before, ¬ (q.present = true ∧ test q = true)) :
    firstPanel test n (before ++ p :: after) = some (n + before.length) := by
  induction before generalizing n with
  | nil =>
    rw [List.nil_append, firstPanel, if_pos (by rw [hpresent, htest]; rfl)]
    rfl
  | cons q before ih =>
    rw [List.cons_append, firstPanel, if_neg (by rw [Bool.and_eq_true]; exact hbefore q List.mem_cons_self),
      ih _ fun r hr => hbefore r (List.mem_cons_of_mem q hr), List.length_cons, Nat.add_right_comm, Nat.add_assoc]

theorem modify_first (f : Panel → Panel) (before after : List Panel) (p : Panel) :
    (before ++ p :: after).modify before.length f = before ++ f p :: after := by
  induction before with
  | nil => rfl
  | cons q before ih => exact congrArg (q :: ·) ih

theorem modify_eq_set_of_get {n : Nat} (f : Panel → Panel) (h : l[n]? = some p) : l.modify n f = l.set n (f p) := by
  obtain ⟨hn, rfl⟩ := List.getElem?_eq_some_iff.mp h
  rw [List.modify_eq_take_cons_drop hn, List.set_eq_take_append_cons_drop, if_pos hn]

end

/-! ### The transaction that starts next (R167) -/

section
variable {psc : Psc} {pattern : Byte}

theorem Psc.startNext_scanning {a : Fin 4} (h : psc.scanner = .scanning a) :
    psc.startNext pattern = { psc with bus := some (.probe a) } := by
  simp only [Psc.startNext, h]

theorem Psc.startNext_read {before after : List Panel} {p : Panel} (hidle : psc.scanner = .idle)
    (hpanels : psc.panels = before ++ p :: after) (hpresent : p.present = true) (hdue : p.readDue = true)
    (hbefore : ∀ q ∈ before, ¬ (q.present = true ∧ q.readDue = true)) :
    psc.startNext pattern = { psc with
      panels := before ++ { p with readDue := false } :: after, bus := some (.read before.length) } := by
  have hfirst : firstPanel Panel.readDue 0 psc.panels = some before.length := by
    rw [hpanels, firstPanel_first 0 hpresent hdue hbefore, Nat.zero_add]
  simp only [Psc.startNext, hidle, hfirst, Psc.modifyPanel]
  rw [hpanels, modify_first]

theorem Psc.startNext_write {before after : List Panel} {p : Panel} (hidle : psc.scanner = .idle)
    (hreads : ∀ q ∈ psc.panels, ¬ (q.present = true ∧ q.readDue = true))
    (hpanels : psc.panels = before ++ p :: after) (hpresent : p.present = true) (hdue : p.writeDue = true)
    (hbefore : ∀ q ∈ before, ¬ (q.present = true ∧ q.writeDue = true)) :
    psc.startNext pattern = { psc with bus := some (.write before.length 0xFF pattern false) } := by
  have hfirst : firstPanel Panel.writeDue 0 psc.panels = some before.length := by
    rw [hpanels, firstPanel_first 0 hpresent hdue hbefore, Nat.zero_add]
  simp only [Psc.startNext, hidle, firstPanel_none 0 hreads, hfirst]

theorem Psc.startNext_none (hidle : psc.scanner = .idle) (hreads : ∀ q ∈ psc.panels, ¬ (q.present = true ∧ q.readDue = true))
    (hwrites : ∀ q ∈ psc.panels, ¬ (q.present = true ∧ q.writeDue = true)) : psc.startNext pattern = psc := by
  simp only [Psc.startNext, hidle, firstPanel_none 0 hreads, firstPanel_none 0 hwrites]
end

theorem State.endTransaction_psc (s : State) :
    s.endTransaction = { s with psc := Psc.startNext s.pattern { s.psc with bus := none } } := by
  unfold State.endTransaction State.startBus
  exact if_pos rfl

/-! ### The buttons of a read (R169) -/

theorem ButtonState.read_eq (low : Bool) (state : ButtonState) :
    state.read (!low) = ((state.read (!low)).1, decide (state = .pressSeen ∧ low = false)) := by
  cases state <;> cases low <;> rfl

/-- One button of panel n in another state. -/
def State.moveButton (n : Nat) (next : Fin 8 → ButtonState) (s : State) (b : Fin 8) : State :=
  { s with psc := { s.psc with panels := s.psc.panels.modify n (fun q => { q with buttons := q.buttons.set b (next b) }) } }

/-- One button of panel n after a read: its move, and a press where it is one. -/
def State.takeButton (n : Nat) (next : Fin 8 → ButtonState) (press : Fin 8 → Bool) (s : State) (b : Fin 8) : State :=
  if press b then (s.moveButton n next b).press n b else s.moveButton n next b

/-- The button states of some buttons moved. -/
def moveButtons (next : Fin 8 → ButtonState) (bs : List (Fin 8)) (buttons : Vector ButtonState 8) : Vector ButtonState 8 :=
  bs.foldl (fun buttons (b : Fin 8) => buttons.set b (next b)) buttons

section
variable {n : Nat} {next : Fin 8 → ButtonState} {press : Fin 8 → Bool}

theorem State.foldl_moveButton (bs : List (Fin 8)) (s : State) :
    bs.foldl (State.moveButton n next) s =
      s.setPsc (s.psc.modifyPanel n (fun q => { q with buttons := moveButtons next bs q.buttons })) := by
  induction bs generalizing s with
  | nil =>
    have hsame : s.psc.panels.modify n (fun q => { q with buttons := moveButtons next [] q.buttons }) = s.psc.panels :=
      List.modify_id n s.psc.panels
    rw [State.setPsc, Psc.modifyPanel, hsame]
    rfl
  | cons b bs ih =>
    rw [List.foldl_cons, ih, State.setPsc, Psc.modifyPanel]
    unfold State.moveButton
    dsimp only
    rw [List.modify_modify_eq]
    rfl

theorem State.requestFocus_panels (s : State) (c : Comp) (cause : FocusCause) (forced : Bool) :
    (s.requestFocus c cause forced).psc.panels.map Panel.fixed = s.psc.panels.map Panel.fixed := by
  have hgrant (v : State) (c : Comp) (cause : FocusCause) (forced : Bool) :
      (v.grant c cause forced).psc.panels.map Panel.fixed = v.psc.panels.map Panel.fixed := by
    unfold State.grant
    split
    · dsimp only
      split <;> exact (State.changeFocus_changed _ c cause).panels
    · rfl
    · rfl
  unfold State.requestFocus
  split
  · refine Eq.trans ?_ (hgrant s c cause forced)
    unfold State.takeDeferredGlide
    split
    · split
      · exact hgrant _ _ _ _
      · rfl
    · rfl
  · rfl
  · rfl

/-- Panel n with the buttons of some numbers as they were. -/
def State.Unread (n : Nat) (buttons : Vector ButtonState 8) (bs : List (Fin 8)) (s : State) : Prop :=
  ∃ q, s.psc.panels[n]? = some q ∧ ∀ b ∈ bs, q.buttons[b] = buttons[b]

theorem State.Unread.congr {buttons : Vector ButtonState 8} {bs : List (Fin 8)} (h : s.Unread n buttons bs)
    (hfixed : t.psc.panels.map Panel.fixed = s.psc.panels.map Panel.fixed) : t.Unread n buttons bs := by
  obtain ⟨q, hq, hbuttons⟩ := h
  have hget := congrArg (fun l : List (Fin 4 × Vector ButtonState 8) => l[n]?) hfixed
  simp only [List.getElem?_map, hq, Option.map_some] at hget
  obtain ⟨r, hr, hsame⟩ := Option.map_eq_some_iff.mp hget
  have hsame : r.buttons = q.buttons := congrArg Prod.snd hsame
  exact ⟨r, hr, fun b hb => by rw [hsame]; exact hbuttons b hb⟩

theorem State.Unread.takeButton {buttons : Vector ButtonState 8} {bs : List (Fin 8)} {b : Fin 8}
    (h : s.Unread n buttons (b :: bs)) (hb : b ∉ bs) : (s.takeButton n next press b).Unread n buttons bs := by
  have hmoved : (s.moveButton n next b).Unread n buttons bs := by
    obtain ⟨q, hq, hbuttons⟩ := h
    refine ⟨{ q with buttons := q.buttons.set b (next b) }, ?_, fun o ho => ?_⟩
    · simp only [State.moveButton, List.getElem?_modify_eq, hq, Option.map_eq_map, Option.map_some]
    · have hne : b.val ≠ o.val := fun he => hb (Fin.ext he ▸ ho)
      exact (Vector.getElem_set_ne b.isLt o.isLt hne).trans (hbuttons o (List.mem_cons_of_mem b ho))
  unfold State.takeButton
  split
  · exact hmoved.congr (State.requestFocus_panels _ b .panel false)
  · exact hmoved

theorem State.readButton_unread {low : Byte} {buttons : Vector ButtonState 8} {bs : List (Fin 8)} {b : Fin 8}
    (h : s.Unread n buttons (b :: bs)) : s.readButton n low b =
      s.takeButton n (fun b => (buttons[b].read (!low.getLsbD b.val)).1)
        (fun b => decide (buttons[b] = .pressSeen ∧ low.getLsbD b.val = false)) b := by
  obtain ⟨q, hq, hbuttons⟩ := h
  unfold State.readButton
  rw [hq]
  dsimp only
  rw [hbuttons b List.mem_cons_self, ButtonState.read_eq]
  rfl

theorem State.foldl_readButton {low : Byte} {buttons : Vector ButtonState 8} {bs : List (Fin 8)} (hnodup : bs.Nodup)
    (h : s.Unread n buttons bs) : bs.foldl (State.readButton n low) s =
      bs.foldl (State.takeButton n (fun b => (buttons[b].read (!low.getLsbD b.val)).1)
        (fun b => decide (buttons[b] = .pressSeen ∧ low.getLsbD b.val = false))) s := by
  induction bs generalizing s with
  | nil => rfl
  | cons b bs ih =>
    obtain ⟨hb, hbs⟩ := List.nodup_cons.mp hnodup
    rw [List.foldl_cons, List.foldl_cons, State.readButton_unread h, ih hbs (h.takeButton hb)]

/-- Reads that find no press move the buttons alone. -/
theorem State.foldl_takeButton_quiet {bs : List (Fin 8)} (h : ∀ b ∈ bs, press b = false) (s : State) :
    bs.foldl (State.takeButton n next press) s = bs.foldl (State.moveButton n next) s := by
  induction bs generalizing s with
  | nil => rfl
  | cons b bs ih =>
    have hquiet : s.takeButton n next press b = s.moveButton n next b := by
      rw [State.takeButton, h b List.mem_cons_self]
      rfl
    rw [List.foldl_cons, List.foldl_cons, hquiet, ih fun o ho => h o (List.mem_cons_of_mem b ho)]

theorem moveButtons_get {bs : List (Fin 8)} (b : Fin 8) (buttons : Vector ButtonState 8) :
    (moveButtons next bs buttons)[b] = if b ∈ bs then next b else buttons[b] := by
  induction bs generalizing buttons with
  | nil => rfl
  | cons o bs ih =>
    rw [moveButtons, List.foldl_cons]
    refine (ih _).trans ?_
    by_cases hin : b ∈ bs
    · rw [if_pos hin, if_pos (List.mem_cons_of_mem o hin)]
    · rw [if_neg hin]
      by_cases he : o = b
      · rw [if_pos (he ▸ List.mem_cons_self), he]
        exact Vector.getElem_set_self b.isLt
      · rw [if_neg (by simp [Ne.symm he, hin])]
        exact Vector.getElem_set_ne o.isLt b.isLt fun hval => he (Fin.ext hval)

/-- All buttons moved are the next states, one by one. -/
theorem moveButtons_all (buttons : Vector ButtonState 8) :
    moveButtons next allComps buttons = #v[next 0, next 1, next 2, next 3, next 4, next 5, next 6, next 7] := by
  have hlisted (b : Fin 8) : next b = #v[next 0, next 1, next 2, next 3, next 4, next 5, next 6, next 7][b] := by
    fin_cases b <;> rfl
  refine Vector.ext fun i hi => ?_
  refine (moveButtons_get (⟨i, hi⟩ : Fin 8) buttons).trans ?_
  rw [if_pos (mem_allComps _)]
  exact hlisted ⟨i, hi⟩

theorem State.foldl_moveButton_notify (bs : List (Fin 8)) (s : State) (x : Notice) :
    bs.foldl (State.moveButton n next) (s.notify x) = (bs.foldl (State.moveButton n next) s).notify x := by
  rw [State.foldl_moveButton, State.foldl_moveButton]
  rfl

/-- A read that finds one press: the buttons up to it move, it is taken, and the rest move. -/
theorem State.foldl_takeButton_one {b : Fin 8} (hb : press b = true) (hother : ∀ o, o ≠ b → press o = false) (s : State) :
    ∃ upTo after, upTo ++ after = allComps ∧ allComps.foldl (State.takeButton n next press) s =
      after.foldl (State.moveButton n next) ((upTo.foldl (State.moveButton n next) s).press n b) := by
  obtain ⟨before, after, hsplit⟩ := List.append_of_mem (mem_allComps b)
  have hnodup : (before ++ b :: after).Nodup := hsplit ▸ allComps_nodup
  obtain ⟨hbefore, hafter⟩ := notMem_sides hnodup
  have hquiet (l : List (Fin 8)) (hl : b ∉ l) : ∀ o ∈ l, press o = false := fun o ho => hother o fun he => hl (he ▸ ho)
  refine ⟨before ++ [b], after, by rw [hsplit, List.append_assoc]; rfl, ?_⟩
  rw [hsplit, List.foldl_append, List.foldl_cons, State.foldl_takeButton_quiet (hquiet before hbefore),
    State.foldl_takeButton_quiet (hquiet after hafter), State.takeButton, hb, List.foldl_append]
  rfl

theorem Fcu.judge_panel (f : Fcu) (b : Fin 8) :
    f.judge b .panel false = if f.focus = b then .ignored else if f.lock = .hard then .refusedLocked else .done := by
  simp only [Fcu.judge, reduceCtorEq, false_and, if_false, not_false_eq_true, and_true, Bool.false_eq_true]

/-- A press that the Focus Unit does not grant is its notice alone. -/
theorem State.press_of_not_done {b : Fin 8} {o : FocusOutcome} (ho : s.fcu.judge b .panel false = o) (hdone : o ≠ .done) :
    s.press n b = s.notify (.panelPress n b o) := by
  have hsame : s.requestFocus b .panel false = s := by
    unfold State.requestFocus
    rw [ho]
    cases o
    case done => exact absurd rfl hdone
    all_goals rfl
  rw [State.press, hsame, ho]

/-- What a granted press leaves of the blocks other than the panel bus. -/
structure State.PressGranted (n : Nat) (b : Fin 8) (s t : State) : Prop where
  focus : t.fcu.focus = b
  lastCause : t.fcu.lastCause = .panel
  clp : ∃ told : Clp, s.clp.outbound <+: told.outbound ∧ t.clp = told.queueNotice (.panelPress n b .done)
  lock : t.fcu.lock = s.fcu.lock
  diu : t.diu = s.diu
  hks : t.hks = s.hks
  rules : t.rtf.rules = s.rtf.rules
  inbound : t.clp.inbound = s.clp.inbound
  comp : ∀ d : Comp, d ≠ s.fcu.focus → d ≠ b → t.comp d = s.comp d

theorem State.press_granted {b : Fin 8} (hfocus : s.fcu.focus ≠ b) (hlock : s.fcu.lock ≠ .hard) (hdwell : s.ptu.dwell ≠ 0) :
    State.PressGranted n b s (s.press n b) := by
  have hjudge : s.fcu.judge b .panel false = .done := by
    rw [Fcu.judge_panel, if_neg hfocus, if_neg hlock]
  have hchanged := s.changeFocus_changed b .panel
  rw [← State.requestFocus_unlocked hjudge hlock hdwell] at hchanged
  have hmoves := State.requestFocus_moves (A := []) (s := s) b .panel false nofun
  have hkept := hmoves.kept
  have htold := Moves.kept (hmoves.tail (.notify _ (.panelPress n b .done)))
  rw [State.press, hjudge]
  generalize s.requestFocus b .panel false = w at hchanged hkept htold
  exact {
    focus := (congrArg Fcu.focus hchanged.fcu :), lastCause := (congrArg Fcu.lastCause hchanged.fcu :)
    clp := ⟨w.clp, hkept.outbound, rfl⟩, lock := (congrArg Fcu.lock hchanged.fcu :), diu := hkept.diu, hks := hkept.hks
    rules := hkept.rules, inbound := htold.inbound, comp := hchanged.comp }

end

/-! ### A read and a write -/

/-- R169: a button's state after a read. -/
def Panel.next (p : Panel) (low : Byte) (b : Fin 8) : ButtonState := (p.buttons[b].read (!low.getLsbD b.val)).1

/-- R169: a read finds a button pressed for the second time. -/
def Panel.presses (p : Panel) (low : Byte) (b : Fin 8) : Bool := decide (p.buttons[b] = .pressSeen ∧ low.getLsbD b.val = false)

/-- R169: the panel after a read. -/
def Panel.afterRead (p : Panel) (low : Byte) : Panel :=
  { p with buttons := moveButtons (p.next low) allComps p.buttons }

section
variable {n : Nat} {p : Panel} {low : Byte}

theorem State.readButtons_eq (hp : s.psc.panels[n]? = some p) (low : Byte) :
    s.readButtons n low = allComps.foldl (State.takeButton n (p.next low) (p.presses low)) s :=
  State.foldl_readButton allComps_nodup ⟨p, hp, fun _ _ => rfl⟩

theorem State.foldl_moveButton_read (hp : s.psc.panels[n]? = some p) (low : Byte) :
    allComps.foldl (State.moveButton n (p.next low)) s =
      s.setPsc { s.psc with panels := s.psc.panels.set n (p.afterRead low) } := by
  rw [State.foldl_moveButton, Psc.modifyPanel, modify_eq_set_of_get _ hp]
  rfl

theorem State.losePanel_eq (hp : s.psc.panels[n]? = some p) (write : Bool) :
    s.losePanel n write = { s with
      psc := { s.psc with panels := s.psc.panels.set n p.lost }
      clp := s.clp.queueNotice (.panelLost n p.address write) } := by
  unfold State.losePanel
  rw [hp]
  dsimp only
  rw [Psc.modifyPanel, modify_eq_set_of_get _ hp]
  rfl

theorem State.wrotePanel_eq (hp : s.psc.panels[n]? = some p) (carried : Byte) (changed : Bool) :
    s.wrotePanel n carried changed = { s with psc := { s.psc with panels := s.psc.panels.set n { p with
      lastPattern := some carried, writeDue := p.present && (changed || decide (s.pattern ≠ carried)) } } } := by
  rw [State.wrotePanel, Psc.modifyPanel, modify_eq_set_of_get _ hp]
  rfl

theorem State.scanning_false (h : s.psc.scanner = .idle) : s.scanning = false := by
  rw [State.scanning, h]
  rfl

theorem State.scanning_true {a : Fin 4} (h : s.psc.scanner = .scanning a) : s.scanning = true := by
  rw [State.scanning, h]
  rfl

end

/-- Settles O55: the bus by the first panel due, a read by its buttons one at a time. -/
theorem thePanelBusRunsItsTransactions : Obligations.ThePanelBusRunsItsTransactions := by
  unfold Obligations.ThePanelBusRunsItsTransactions
  refine ⟨fun pattern psc => ⟨fun a => Psc.startNext_scanning, fun hidle => ⟨?read, fun hreads => ⟨?write, ?none⟩⟩⟩,
    ?scan, ?probes, ?reads, ?writes, ?others⟩
  case read => exact fun before p after hpanels hpresent hdue => Psc.startNext_read hidle hpanels hpresent hdue
  case write => exact fun before p after hpanels hpresent hdue => Psc.startNext_write hidle hreads hpanels hpresent hdue
  case none => exact Psc.startNext_none hidle hreads
  case scan =>
    intro t s tag rest hasks
    refine ⟨fun ⟨a, hscanning⟩ => ?_, fun hidle => ?_⟩
    · refine requestScanPanels_keeps.exec_asks hasks (rep := .bare .wrongState) ?_
      exact if_pos (State.scanning_true (s := s.at t) hscanning)
    · have hscan : requestScanPanels [] (s.at t) = ((s.at t).startScan, .bare .ok) := by
        rw [requestScanPanels, if_neg (not_not_intro rfl), State.scanning_false (s := s.at t) hidle]
        rfl
      refine (requestScanPanels_keeps.exec_asks hasks hscan).trans ?_
      exact congrArg (fun psc : Psc => Host.Outcome.next (({ s.at t with psc := psc } : State).answered 0x15 tag rest [0])) s.psc.scanned_eq
  case probes =>
    intro t s ack
    refine ⟨?probe, fun a hbus hscanner => ?earlier, fun hother => ?other⟩
    case probe =>
      intro a hbus found panels
      have hexec : exec (.probeCompletes t ack) s = .next ((s.at t).endProbe a ack) := by
        refine congrArg Host.Outcome.next ?_
        rw [hbus]
      refine ⟨fun hless => hexec.trans (congrArg Host.Outcome.next ?_), fun hlast => hexec.trans (congrArg Host.Outcome.next ?_)⟩
      · have hne : a ≠ 3 := fun he => by rw [he] at hless; exact absurd hless (by decide)
        rw [State.endProbe, if_neg hne, if_neg hne, State.endTransaction_psc]
        rfl
      · rw [State.endProbe, if_pos hlast, if_pos hlast, State.endTransaction_psc]
        rfl
    case earlier =>
      refine congrArg Host.Outcome.next ?_
      rw [hbus]
      refine (State.endTransaction_psc _).trans ?_
      exact congrArg (fun psc : Psc => ({ s.at t with psc := psc } : State))
        (Psc.startNext_scanning (psc := { s.psc with bus := none }) hscanner)
    case other =>
      refine congrArg Host.Outcome.next ?_
      split
      · next a hbus => exact absurd hbus (hother a).1
      · next a hbus => exact absurd hbus (hother a).2
      · rfl
  case reads =>
    intro t s low high n p hbus hp hidle after down next read moved pressed taken
    have hp' : (s.at t).psc.panels[n]? = some p := hp
    have hexec (ack : Bool) : exec (.panelReadCompletes t ack low high) s = .next ((s.at t).endRead n ack low) := by
      refine congrArg Host.Outcome.next ?_
      rw [hbus]
    have hscanning : (s.at t).scanning = false := State.scanning_false (s := s.at t) hidle
    have hnext : p.next low = next := funext fun b => by
      simp only [Panel.next, next]
      cases p.buttons[b] <;> cases low.getLsbD b.val <;> rfl
    have hread : p.afterRead low = read := by
      rw [Panel.afterRead, moveButtons_all, hnext]
    have htaken : (s.at t).readButtons n low = taken := by
      refine (State.readButtons_eq hp' low).trans ?_
      refine congrArg (fun f : State → Fin 8 → State => allComps.foldl f (s.at t)) (funext fun v => funext fun b => ?_)
      have hmoved : v.moveButton n (p.next low) b = moved v b := by rw [hnext]; rfl
      have hpressed : (moved v b).press n b = pressed v b := by
        rw [State.press, Fcu.judge_panel]
        rfl
      rw [State.takeButton, hmoved, hpressed]
      simp only [Panel.presses, decide_eq_true_eq]
    have hdone : exec (.panelReadCompletes t true low high) s =
        .next { taken with psc := Psc.startNext taken.pattern { taken.psc with bus := none } } := by
      rw [hexec, State.endRead, hscanning, ← State.endTransaction_psc, ← htaken]
      rfl
    have hquietly : allComps.foldl (State.moveButton n (p.next low)) (s.at t) =
        { s.at t with psc := { s.psc with panels := s.psc.panels.set n read } } := by
      rw [State.foldl_moveButton_read hp', hread]
      rfl
    have htake : taken = allComps.foldl (State.takeButton n (p.next low) (p.presses low)) (s.at t) := by
      rw [← htaken, State.readButtons_eq hp']
    refine ⟨hdone, fun hnone => ?quiet, fun b hseen hdown hother => ?onePress, ?lost⟩
    case quiet =>
      have hall : taken = { s.at t with psc := { s.psc with panels := s.psc.panels.set n read } } :=
        htake.trans ((State.foldl_takeButton_quiet (press := p.presses low) (fun b _ => decide_eq_false (hnone b)) _).trans hquietly)
      rw [hdone, hall]
      rfl
    case onePress =>
      obtain ⟨upTo, rest, hsplit, hfold⟩ := State.foldl_takeButton_one (n := n) (next := p.next low) (press := p.presses low)
        (decide_eq_true ⟨hseen, hdown⟩) (fun o ho => decide_eq_false (hother o ho)) (s.at t)
      rw [← htake] at hfold
      obtain ⟨psc, hupTo⟩ : ∃ psc, upTo.foldl (State.moveButton n (p.next low)) (s.at t) = (s.at t).setPsc psc :=
        ⟨_, State.foldl_moveButton upTo (s.at t)⟩
      have hrefused (o : FocusOutcome) (ho : s.fcu.judge b .panel false = o) (hne : o ≠ .done) :
          exec (.panelReadCompletes t true low high) s =
            .next { s.at t with psc := after read, clp := s.clp.queueNotice (.panelPress n b o) } := by
        have hpress := State.press_of_not_done (s := upTo.foldl (State.moveButton n (p.next low)) (s.at t)) (n := n) (b := b)
          (by rw [hupTo]; exact ho) hne
        rw [hpress, State.foldl_moveButton_notify, ← List.foldl_append, hsplit, hquietly] at hfold
        rw [hdone, hfold]
        rfl
      refine ⟨fun hfocus => hrefused _ (by rw [Fcu.judge_panel, if_pos hfocus]) nofun,
        fun hfocus hlock => hrefused _ (by rw [Fcu.judge_panel, if_neg hfocus, if_pos hlock]) nofun,
        fun hfocus hlock hdwell => ?granted⟩
      case granted =>
        have hpressed := State.press_granted (s := (s.at t).setPsc psc) (n := n) hfocus hlock hdwell
        rw [hupTo] at hfold
        generalize ((s.at t).setPsc psc).press n b = v at hpressed hfold
        rw [State.foldl_moveButton] at hfold
        refine ⟨_, hdone, ?_⟩
        rw [hfold]
        exact ⟨hpressed.focus, hpressed.lastCause, hpressed.clp, hpressed.lock, hpressed.diu, hpressed.hks, hpressed.rules,
          hpressed.inbound, hpressed.comp⟩
    case lost =>
      rw [hexec, State.endRead, hscanning, State.endTransaction_psc]
      simp only [Bool.false_eq_true, if_false]
      rw [State.losePanel_eq hp']
      rfl
  case writes =>
    intro t s n ones carried changed p hbus hp hidle after
    have hp' : (s.at t).psc.panels[n]? = some p := hp
    have hexec (ack : Bool) : exec (.panelWriteCompletes t ack) s = .next ((s.at t).endWrite n carried changed ack) := by
      refine congrArg Host.Outcome.next ?_
      rw [hbus]
    have hscanning : (s.at t).scanning = false := State.scanning_false (s := s.at t) hidle
    refine ⟨?_, ?_⟩
    · rw [hexec, State.endWrite, hscanning, State.endTransaction_psc]
      simp only [Bool.false_eq_true, if_false, if_true]
      rw [State.wrotePanel_eq hp']
      rfl
    · rw [hexec, State.endWrite, hscanning, State.endTransaction_psc]
      simp only [Bool.false_eq_true, if_false]
      rw [State.losePanel_eq hp']
      rfl
  case others =>
    intro t s ack low high ended
    refine ⟨fun n a hbus hscanner => ?_, fun n ones carried changed a hbus hscanner => ?_, fun hother => ?_, fun hother => ?_⟩
    · refine congrArg Host.Outcome.next ?_
      rw [hbus]
      dsimp only
      rw [State.endRead, State.scanning_true (s := s.at t) hscanner, State.endTransaction_psc]
      rfl
    · refine congrArg Host.Outcome.next ?_
      rw [hbus]
      dsimp only
      rw [State.endWrite, State.scanning_true (s := s.at t) hscanner, State.endTransaction_psc]
      rfl
    · refine congrArg Host.Outcome.next ?_
      split
      · next n hbus => exact absurd hbus (hother n)
      · rfl
    · refine congrArg Host.Outcome.next ?_
      split
      · next n ones carried changed hbus => exact absurd hbus (hother n ones carried changed)
      · rfl

end Sys2Proof.Machine
end

section
/-! The desk modifier state, the LED pattern and its derivation, ticks and blink edges, READ PANELS and READ DESK (R13, R155, R169,
R170, R172, R181). -/

namespace Sys2Proof.Machine

variable {s t u : State}

/-! ### The desk modifier state -/

theorem mergeModifiers_getLsbD (mods : Byte) (k : Fin 4) :
    (mergeModifiers mods).getLsbD k.val = (mods.getLsbD k.val || mods.getLsbD (k.val + 4)) := by
  simp only [mergeModifiers, BitVec.getLsbD_or, BitVec.getLsbD_extractLsb', k.isLt, decide_true, Bool.true_and, Nat.zero_add,
    Nat.add_comm 4]

theorem DeskPort.merged_getLsbD (d : DeskPort) (k : Fin 4) : d.merged.getLsbD k.val = true ↔
    ∃ (mods : Byte) (keys : List Byte), d = .keyboard mods keys ∧ (mods.getLsbD k.val = true ∨ mods.getLsbD (k.val + 4) = true) := by
  cases d with
  | keyboard mods keys =>
    rw [DeskPort.merged, mergeModifiers_getLsbD, Bool.or_eq_true]
    refine ⟨fun h => ⟨mods, keys, rfl, h⟩, ?_⟩
    rintro ⟨mods', keys', heq, h⟩
    cases heq
    exact h
  | _ => simp [DeskPort.merged]

theorem deskModifiers_getLsbD (s : State) (k : Fin 4) : s.deskModifiers.getLsbD k.val = true ↔
    ∃ (p : DeskPortId) (mods : Byte) (keys : List Byte), s.diu[p] = .keyboard mods keys ∧
      (mods.getLsbD k.val = true ∨ mods.getLsbD (k.val + 4) = true) := by
  simp only [State.deskModifiers, getLsbD_union_ports, DeskPort.merged_getLsbD]

/-! ### The LEDs (R170) -/

theorem State.pattern_getLsbD (s : State) (c : Comp) : s.pattern.getLsbD c.val = (s.led c).lit s.sinceReset :=
  inSet_compSetOf _ c

/-- R167: the start of the bus, in one equation. -/
theorem State.startBus_psc (s : State) :
    s.startBus = { s with psc := if s.psc.bus = none then s.psc.startNext s.pattern else s.psc } := by
  unfold State.startBus
  split <;> rfl

theorem State.anyBlink_iff (s : State) :
    s.anyBlink = true ↔ ∃ c : Comp, (s.comp c).port = .resuming ∨ (s.comp c).port = .suspended := by
  have hled (c : Comp) : (s.led c = .slowBlink ∨ s.led c = .fastBlink) ↔ (s.comp c).port = .resuming ∨ (s.comp c).port = .suspended := by
    unfold State.led
    split
    · next h => exact ⟨fun _ => .inl h, fun _ => .inr rfl⟩
    · next h => exact ⟨fun _ => .inr h, fun _ => .inl rfl⟩
    · next hresuming hsuspended => exact ⟨fun h => by split at h <;> simp at h, fun h => absurd h (not_or.mpr ⟨hresuming, hsuspended⟩)⟩
  simp only [State.anyBlink, List.any_eq_true, Bool.or_eq_true, decide_eq_true_eq, hled]
  exact ⟨fun ⟨c, _, h⟩ => ⟨c, h⟩, fun ⟨c, h⟩ => ⟨c, mem_allComps c, h⟩⟩

/-- Settles O56: the sets bit by bit, ticks and edges by the time since full reset. -/
theorem ticksAndDeskReads : Obligations.TicksAndDeskReads := by
  unfold Obligations.TicksAndDeskReads
  intro derived
  have hderived (pattern : Byte) (psc : Psc) : psc.markWrites pattern = derived pattern psc := by
    simp only [Psc.markWrites, Bool.and_eq_true, decide_eq_true_eq, derived]
    obtain ⟨panels, scanner, bus⟩ := psc
    rcases bus with _ | (a | a | n | ⟨n, low, high, changed⟩) <;> rfl
  have hbus (pattern : Byte) (psc : Psc) : (derived pattern psc).bus = none ↔ psc.bus = none := by
    rw [← hderived]
    exact Option.map_eq_none_iff
  have hleds (s : State) : s.deriveLeds = { s with psc :=
      if s.psc.bus = none then (derived s.pattern s.psc).startNext s.pattern else derived s.pattern s.psc } := by
    unfold State.deriveLeds
    rw [hderived, State.startBus_psc]
    simp only [hbus]
    rfl
  refine ⟨hleds, deskModifiers_getLsbD, fun s c => ?lit, ?ticks, ?reads⟩
  case lit =>
    rw [State.pattern_getLsbD]
    unfold State.led
    have hfocus : (if s.fcu.focus = c then Led.on else Led.off).lit s.sinceReset = decide (s.fcu.focus = c) := by
      split
      · next h => exact (decide_eq_true h).symm
      · next h => exact (decide_eq_false h).symm
    generalize (s.comp c).port = port
    cases port with
    | resuming => rfl
    | suspended => rfl
    | _ => exact hfocus
  case ticks =>
    intro t s v elapsed free due changed blinks
    have hblinks : v.anyBlink = true ↔ blinks := v.anyBlink_iff
    have hpoll (h : ¬ (elapsed % 10 = 0 ∧ s.psc.scanner = .idle)) : exec (.pollTick t) s = .next v :=
      congrArg Host.Outcome.next (if_neg h)
    have hblink (h : ¬ (elapsed % 250 = 0 ∧ blinks)) : exec (.blinkEdge t) s = .next v := by
      refine congrArg Host.Outcome.next (if_neg ?_)
      rw [Bool.and_eq_true, hblinks, decide_eq_true_eq]
      exact h
    refine ⟨fun htime hidle => congrArg Host.Outcome.next ?due, fun h => hpoll (not_and_or.mpr h),
      fun htime hblinking => congrArg Host.Outcome.next ?edge, fun h => hblink (not_and_or.mpr h)⟩
    case due =>
      refine (if_pos ⟨htime, hidle⟩).trans ?_
      exact State.startBus_psc _
    case edge =>
      refine (if_pos ?_).trans ((hleds v).trans ?_)
      · rw [Bool.and_eq_true, hblinks, decide_eq_true_eq]
        exact ⟨htime, hblinking⟩
      · rfl
  case reads =>
    intro t s tag rest
    refine ⟨fun hasks => ?panels, fun hasks => ?desk⟩
    case panels =>
      intro led scanner
      have hled (c : Comp) : ((s.at t).led c).code = led c := by
        have hfocus : (if s.fcu.focus = c then Led.on else Led.off).code = if s.fcu.focus = c then 1 else 0 := by split <;> rfl
        unfold State.led
        simp only [led, show (s.at t).comp c = s.comp c from rfl]
        generalize (s.comp c).port = port
        cases port with
        | resuming => rfl
        | suspended => rfl
        | _ => exact hfocus
      have hscanner : flagByte (s.at t).scanning = scanner := by
        cases h : s.psc.scanner with
        | idle =>
          rw [State.scanning_false (s := s.at t) h]
          simp only [scanner, h]
          rfl
        | scanning a =>
          rw [State.scanning_true (s := s.at t) h]
          simp only [scanner, h]
          rfl
      refine requestReadPanels_keeps.exec_asks hasks (rep := .okWith (s.at t).panelBytes) rfl (hdata := ?_)
      have hbytes : (s.at t).panelBytes = [scanner, byte s.psc.panels.length] ++ s.psc.panels.flatMap Panel.bytes ++
          [led 0, led 1, led 2, led 3, led 4, led 5, led 6, led 7] := by
        rw [State.panelBytes, hscanner]
        simp only [hled]
        rfl
      exact congrArg (0 :: ·) hbytes
    case desk =>
      intro port desk
      have hport (p : DeskPortId) : [(s.at t).diu[p].code, (s.at t).diu[p].reasonCode] = port p := by
        simp only [port, State.at_diu]
        rcases s.diu[p] with _ | _ | _ | _ | (_ | _ | _) <;> rfl
      have hdesk : (s.at t).wpc.desk.code = desk := by
        simp only [desk, State.at]
        cases s.wpc.desk <;> rfl
      refine requestReadDesk_keeps.exec_asks hasks (rep := .okWith (s.at t).deskBytes) rfl (hdata := ?_)
      have hbytes : (s.at t).deskBytes = port 0 ++ port 1 ++ port 2 ++ port 3 ++
          [s.deskModifiers.setWidth 8, desk, s.wpc.awaited, s.notAsleep s.wpc.awaited] := by
        rw [State.deskBytes, hdesk]
        simp only [hport, allDeskPorts, List.flatMap_cons, List.flatMap_nil, List.append_nil, List.append_assoc]
        rfl
      exact congrArg (0 :: ·) hbytes

end Sys2Proof.Machine
end

section
/-! RESTART (R182): the state it leaves, and what each block keeps of it (R40, R54, R79, R99, R119, R140, R149, R166, R173). -/

namespace Sys2Proof.Machine

variable {s t u : State}

/-! ### The computers -/

/-- R54: a computer's record with no key held. -/
def Computer.unkeyed (r : Computer) : Computer :=
  if r.keySet = [] then r else ({ r with keySet := [] }).takeSnapshot { mods := 0, slots := #v[0, 0, 0, 0, 0, 0] }

/-- R54, R99: a computer's record with no key held and no button sent. -/
def Computer.idled (r : Computer) : Computer := r.unkeyed.unbuttoned

theorem nextKeySet_nil (c : Comp) (old : List Byte) : nextKeySet [] c old = [] := by
  have hnone : heldUsages [] c = [] := rfl
  simp only [nextKeySet, hnone, List.filter_nil, List.append_nil]
  exact List.filter_eq_nil_iff.mpr fun u _ => by simp

theorem Computer.refreshed_nil (c : Comp) (r : Computer) : (r.refreshed [] c).unbuttoned = r.idled := by
  unfold Computer.refreshed
  rw [nextKeySet_nil]
  unfold Computer.idled Computer.unkeyed
  by_cases h : r.keySet = []
  · rw [if_pos h.symm, if_pos h]
  · rw [if_neg (Ne.symm h), if_neg h]
    rfl

theorem Computer.unkeyed_frame (r : Computer) : ∃ q l o m,
    r.unkeyed = { r with keySet := [], queue := q, lastSnapshot := l, owedKeyboard := o, merge := m } := by
  unfold Computer.unkeyed
  split
  · next h => exact ⟨_, _, _, _, by rw [← h]⟩
  · obtain ⟨q, l, o, m, heq, -, -⟩ := Computer.takeSnapshot_frame { r with keySet := [] } { mods := 0, slots := #v[0, 0, 0, 0, 0, 0] }
    exact ⟨q, l, o, m, heq⟩

theorem Computer.unkeyed_lastPointer (r : Computer) : r.unkeyed.lastPointer = r.lastPointer := by
  obtain ⟨q, l, o, m, heq⟩ := r.unkeyed_frame
  rw [heq]

theorem Computer.idled_none {r : Computer} (h : r.lastPointer = none) : r.idled = r.unkeyed := by
  simp only [Computer.idled, Computer.unbuttoned, r.unkeyed_lastPointer, h]

theorem Computer.idled_some {r : Computer} {p : PointerState} (h : r.lastPointer = some p) :
    r.idled = if p.buttons = 0 then r.unkeyed else r.unkeyed.takePointer { p with buttons := 0 } 0 := by
  simp only [Computer.idled, Computer.unbuttoned, r.unkeyed_lastPointer, h]

theorem Computer.idled_frame (r : Computer) : ∃ q lastSnapshot lastPointer owedKeyboard owedPointer m,
    r.idled = { r with
      keySet := [], queue := q, lastSnapshot := lastSnapshot, lastPointer := lastPointer, owedKeyboard := owedKeyboard
      owedPointer := owedPointer, merge := m } := by
  obtain ⟨q, l, o, m, hunkeyed⟩ := r.unkeyed_frame
  obtain ⟨q', l', o', m', hunbuttoned⟩ := Computer.unbuttoned_frame
    { r with keySet := [], queue := q, lastSnapshot := l, owedKeyboard := o, merge := m }
  refine ⟨q', l, l', o, o', m', ?_⟩
  rw [Computer.idled, hunkeyed, hunbuttoned]

theorem State.foldl_releaseButtons {l : List Comp} (hnodup : l.Nodup) (s : State) : ∃ cps,
    l.foldl State.releaseButtons s = { s with cps := cps } ∧
      ∀ c : Comp, cps[c] = if c ∈ l then (s.comp c).unbuttoned else s.comp c := by
  induction l generalizing s with
  | nil => exact ⟨s.cps, rfl, fun c => (if_neg List.not_mem_nil).symm⟩
  | cons d l ih =>
    obtain ⟨hd, hl⟩ := List.nodup_cons.mp hnodup
    obtain ⟨cps, heq, hcps⟩ := ih hl (s.setComp d (s.comp d).unbuttoned)
    refine ⟨cps, by rw [List.foldl_cons, State.releaseButtons_eq, heq]; rfl, fun c => ?_⟩
    rw [hcps, State.comp_setComp]
    by_cases he : c = d
    · subst he
      rw [if_neg hd, if_pos rfl, if_pos List.mem_cons_self]
    · rw [if_neg he]
      simp only [List.mem_cons, he, false_or]

/-! ### The blocks -/

/-- R99: the pointer record of a restart, before the hit test. -/
def State.centredPtu (s : State) : Ptu :=
  { s.ptu with
    px := s.lco.screens[s.lco.lowestPlaced].rect.centre.1, py := s.lco.screens[s.lco.lowestPlaced].rect.centre.2, fx := 0, fy := 0
    stale := s.markStale.ptu.stale }

theorem State.centredPtu_eq {scr : ScreenId} (h : s.lco.lowestPlaced = scr) : s.centredPtu = { s.ptu with
    px := s.lco.screens[scr].rect.x + s.lco.screens[scr].rect.w / 2, py := s.lco.screens[scr].rect.y + s.lco.screens[scr].rect.h / 2
    fx := 0, fy := 0, stale := s.markStale.ptu.stale } := by
  subst h
  rfl

/-- R182: what the blocks are set to, before anything follows on. -/
def State.restarted (s : State) (cps : Vector Computer 8) : State :=
  let hit := { s with ptu := s.centredPtu }.hitTest
  { s with
    hks := s.hks.restarted
    rtf := { s.rtf with held := [] }
    cps := cps
    fcu := .reset
    ptu := { s.centredPtu with hitTile := hit.1, hit := hit.2 }
    wpc := { s.wpc with desk := .awake, awaited := 0, deskDeadline := none } }

/-- R166: the desk's leaving ASLEEP, of a restart's blocks. -/
def State.restartedLit (s : State) (cps : Vector Computer 8) : State :=
  if s.wpc.desk = .asleep then allScreens.foldl State.leaveForced (s.restarted cps) else s.restarted cps

theorem State.restartBlocks_eq (s : State) : ∃ cps, (∀ c : Comp, cps[c] = (s.comp c).idled) ∧
    s.restartBlocks = (allScreens.foldl (State.reevaluateScreen State.reevaluate) (s.restartedLit cps)).deriveLeds := by
  obtain ⟨keyed, hkeyed⟩ := (s.setHks s.hks.restarted).setHeld_eq []
  have hcomp (c : Comp) : keyed[c] = (s.comp c).refreshed [] c := by
    have h := State.comp_setHeld (s := s.setHks s.hks.restarted) [] c
    rw [hkeyed] at h
    exact h
  obtain ⟨cps, hbuttons, hcps⟩ := State.foldl_releaseButtons allComps_nodup
    { s with hks := s.hks.restarted, rtf := { s.rtf with held := [] }, cps := keyed, fcu := .reset }
  have hidled (c : Comp) : cps[c] = (s.comp c).idled := by
    rw [hcps, if_pos (mem_allComps c), ← Computer.refreshed_nil c, ← hcomp]
    rfl
  refine ⟨cps, hidled, ?_⟩
  let released : State := { s with hks := s.hks.restarted, rtf := { s.rtf with held := [] }, cps := cps, fcu := .reset }
  have hhit : State.hitTest { released with ptu := s.centredPtu } = State.hitTest { s with ptu := s.centredPtu } :=
    hitTest_congr rfl rfl rfl fun c => by
      obtain ⟨q, l, l', o, o', m, hframe⟩ := (s.comp c).idled_frame
      have hc : State.comp { released with ptu := s.centredPtu } c = _ := (hidled c).trans hframe
      rw [hc]
      exact ⟨rfl, rfl⟩
  have hpointer : (((s.setHks s.hks.restarted).restartKeys).setFcu .reset).restartPointer =
      { s.restarted cps with wpc := s.wpc } := by
    unfold State.restartKeys State.restartPointer
    rw [hkeyed]
    refine (congrArg (fun v : State => v.markStale.recentre.makeHitTest) hbuttons).trans ?_
    have hcentred : released.markStale.recentre = { released with ptu := s.centredPtu } := rfl
    change released.markStale.recentre.makeHitTest = _
    rw [hcentred, State.makeHitTest, hhit]
    rfl
  unfold State.restartBlocks
  dsimp only
  rw [hpointer]
  rfl

/-- R162, R166: the screens that leave forced standby change nothing but what follows on, whatever the dwell setting. -/
theorem State.restartedLit_shows (s : State) (cps : Vector Computer 8) : (s.restarted cps).Shows (s.restartedLit cps) := by
  unfold State.restartedLit
  split
  · exact State.shows_foldl (D := fun _ => True) (fun v scr => (State.shows_leaveForced v scr).always) allScreens _ trivial
  · exact .refl _

/-- R182, steps 1 to 3: the link of a restart. -/
def State.restartedLink (s : State) (tag : Byte) (rest : List Request) : State :=
  { s with clp := { s.clp with
      inbound := [], lost := false
      outbound := [{ kind := 0x96, tag := tag, payload := [0, byte rest.length, byte s.clp.outbound.length] }]
      spi := s.clp.spi.orphaned } }

theorem exec_restart {tag : Byte} {rest : List Request} (hasks : s.Asks 0x16 tag [] rest) (t : Time) :
    exec (.restart t) s = .next ((s.at t).restartedLink tag rest).restartBlocks := by
  have hin : (s.at t).clp.inbound = _ := hasks.2
  refine congrArg Host.Outcome.next ?_
  unfold State.restart
  rw [hin]
  dsimp only
  rw [if_pos rfl, if_pos ⟨rfl, rfl⟩, Clp.restarted, Clp.restartReply, hin]
  rfl

/-- Settles O60: the whole state by the blocks in their order, and each block by what follows on. -/
theorem restartReturnsTheRuntimeValues : Obligations.RestartReturnsTheRuntimeValues := by
  unfold Obligations.RestartReturnsTheRuntimeValues
  intro t s tag payload rest hasks
  refine ⟨fun hpayload => ?refused, ?whole, ?blocks⟩
  case refused =>
    refine congrArg Host.Outcome.next ?_
    rw [restart_of_not_ok hasks.2 rfl fun h => hpayload h.2]
    exact reply_answered _ (s.at t) _ (show (0x16 : Byte) < 0x80 by decide) hasks.2
  case whole =>
    rintro rfl scr hplaced hbefore
    obtain ⟨cps, hidled, hblocks⟩ := ((s.at t).restartedLink tag rest).restartBlocks_eq
    refine ⟨cps, s.markStale.ptu.stale, fun c => ?comp, s.markStale_stale, ?state⟩
    case comp =>
      intro unkeyed
      refine (hidled c).trans ?_
      cases h : (s.comp c).lastPointer with
      | none => exact Computer.idled_none h
      | some p => exact Computer.idled_some h
    case state =>
      intro rect centred hit base left
      have hcentred : ((s.at t).restartedLink tag rest).centredPtu = centred :=
        State.centredPtu_eq (s := (s.at t).restartedLink tag rest) (lowestPlaced_eq hplaced hbefore)
      have hhit : State.hitTest { (s.at t).restartedLink tag rest with ptu := centred } = hit :=
        hitTest_congr rfl rfl rfl fun _ => ⟨rfl, rfl⟩
      have hbase : ((s.at t).restartedLink tag rest).restarted cps = base := by
        unfold State.restarted
        rw [hcentred, hhit]
        rfl
      rw [exec_restart hasks, hblocks, State.restartedLit, hbase]
      rfl
  case blocks =>
    rintro rfl hdwell
    obtain ⟨cps, hidled, hblocks⟩ := ((s.at t).restartedLink tag rest).restartBlocks_eq
    have hshows := (((s.at t).restartedLink tag rest).restartedLit_shows cps).trans
      (State.shows_reevaluateScreens State.shows_reevaluate_if _ (by
        rw [(State.restartedLit_shows _ cps).dwell]
        exact hdwell))
    refine ⟨_, (exec_restart hasks t).trans (congrArg Host.Outcome.next hblocks), ?_⟩
    change State.Shows _ (allScreens.foldl (State.reevaluateScreen State.reevaluate) _) at hshows
    generalize allScreens.foldl (State.reevaluateScreen State.reevaluate)
      (((s.at t).restartedLink tag rest).restartedLit cps) = v at hshows ⊢
    have hfollows := hshows.toFollows.trans (State.follows_deriveLeds v)
    have hcomp (c : Comp) : v.deriveLeds.comp c = (s.comp c).idled := (hfollows.comp c).trans (hidled c)
    have hpark := hfollows.park rfl
    have hptu := hfollows.ptu
    obtain ⟨-, -, -, haddresses⟩ := hfollows.followsOn
    obtain ⟨q, hq⟩ := hfollows.outbound
    refine ⟨hfollows.diu, hfollows.hks, hfollows.rtf, fun c => ?keys, hfollows.fcu.trans (by rw [hpark]; rfl),
      fun scr hplaced hbefore => ?place, (congrArg Ptu.fx hptu :), (congrArg Ptu.fy hptu :), fun p => ?stale, ?pointer, fun c => ?frame,
      fun c => ?comp, hfollows.look, hfollows.wpc, hfollows.scanner, haddresses, ?leds, (congrArg Clp.inbound hfollows.clp :),
      q, hq.symm⟩
    case keys =>
      obtain ⟨_, _, _, _, _, _, hframe⟩ := (s.comp c).idled_frame
      rw [hcomp, hframe]
    case place =>
      have hcentred := State.centredPtu_eq (s := (s.at t).restartedLink tag rest) (lowestPlaced_eq hplaced hbefore)
      exact ⟨(congrArg Ptu.px hptu).trans (congrArg Ptu.px hcentred), (congrArg Ptu.py hptu).trans (congrArg Ptu.py hcentred)⟩
    case stale =>
      have hstale : v.deriveLeds.ptu.stale = s.markStale.ptu.stale := (congrArg Ptu.stale hptu :)
      rw [hstale, s.markStale_stale]
    case pointer =>
      rw [hptu]
      rfl
    case frame =>
      obtain ⟨_, _, _, _, _, _, hframe⟩ := (s.comp c).idled_frame
      rw [hcomp, hframe]
    case comp =>
      intro unkeyed
      refine (hcomp c).trans ?_
      cases h : (s.comp c).lastPointer with
      | none => exact Computer.idled_none h
      | some p => exact Computer.idled_some h
    case leds =>
      have hderive := ticksAndDeskReads
      unfold Obligations.TicksAndDeskReads at hderive
      obtain ⟨hleds, -⟩ := hderive
      have hpattern : v.deriveLeds.pattern = v.pattern := by
        rw [hleds v]
        rfl
      rw [hpattern]
      intro marked
      refine (congrArg State.psc (hleds v)).trans ?_
      dsimp only
      rw [hshows.psc]
      rfl

end Sys2Proof.Machine
end
